-- ==== Sys2Proof/Word.lean ====
section
/-! DEFINITION. The word types of the TLFAN block: register data, operation words, register offsets
and channel numbers (00_scope.md R11, 30_encoding.md R91). -/

namespace Sys2Proof

/-- A register value or a bus data word: 32 bits (R11). -/
abbrev Word := BitVec 32

/-- An operation word: 16 bits (R91). -/
abbrev OpWord := BitVec 16

/-- A byte offset into the 4 KiB register window: 12 bits (R70). -/
abbrev Offset := BitVec 12

/-- A channel number as it stands in an offset or an EDGE word: 2 bits (R93). -/
abbrev ChanIx := BitVec 2

end Sys2Proof
end

