-- ==== Sys2Proof/Config.lean ====
section
/-! DEFINITION. The parameters of the block (00_scope.md R11): the constants the spec fixes, and the channel count of
the machine that `State.reset` describes. The spec leaves no value of a result open, so there is no free value. -/

namespace Sys2Proof.Config

/-- The read value of the ID register, "TLF" and revision 7 (R23). -/
def idValue : Word := 0x544C4607#32

/-- NCH of the machine that `State.reset` describes and of `decodeTableWord`. DESIGN CHOICE (log 3): the spec leaves
NCH open, 1 to 4 (R11); every other definition takes NCH from the state it is given. -/
def nch : Nat := 4

/-- A `TICK_US` at this prescaler value completes a millisecond: US_PER_MS - 1 (R11, R200). -/
def prescLast : Nat := 999

/-- 100 % as a duty value, in units of 1/256 percent (R16). -/
def dutyMax : Nat := 25600

/-- A smoothing factor of 1.0 in the unit of ALPHA (R16). -/
def alphaOne : Nat := 65536

/-- The largest RPM a window reports: 2^31 - 1 (R142). -/
def rpmMax : Nat := 2147483647

end Sys2Proof.Config
end

