-- ==== Sys2Proof/Syntax.lean ====
section
/-! DEFINITION. The operations of TLFAN-OPS version 1: one constructor of `Instr` for each row of the opcode table
(30_encoding.md R90, R99), the raw form in which an agent presents an operation, and the agents of 00_scope.md R9. -/

namespace Sys2Proof

/-- The direction of a bus access, with the 32-bit operand that a write carries (R91, R97). -/
inductive Access where
  /-- A read (K = 0b00). -/
  | rd
  /-- A write (K = 0b01) of `wdata`. -/
  | wr (wdata : Word)
  deriving DecidableEq, Repr

/-- An operation as an agent presents it: the 16-bit operation word and the 32 bits of WDATA beside it, which only a
write reads (R91, R97). -/
structure Presented where
  word : OpWord
  wdata : Word
  deriving DecidableEq, Repr

/-- Why the decoder refuses a word (R95). -/
inductive DecodeError where
  /-- "no such tach input": an EDGE word with a nonzero reserved field or a channel c >= NCH (R95, R96). -/
  | noSuchTachInput
  /-- "no such system event": a SYS word other than 0xC000 and 0xC001 (R95, R96). -/
  | noSuchSystemEvent
  deriving DecidableEq, Repr

/-- The agents whose steps change the block (R9). -/
inductive Agent where
  /-- Any bus master. -/
  | host
  /-- Tach input `c`. -/
  | edge (c : ChanIx)
  /-- The microsecond strobe. -/
  | timebase
  /-- The reset input. -/
  | reset
  deriving DecidableEq, Repr

/-- The operations: one constructor for each row of the opcode table, in the table's order. `c` is the channel field,
`wdata` the operand of a write. -/
inductive Instr where
  /-- RD ID, match 0x2000 mask 0xFFFF (R221). -/
  | rdId
  /-- WR ID, match 0x6000 mask 0xFFFF (R234). -/
  | wrId (wdata : Word)
  /-- RD CFG, match 0x2004 mask 0xFFFF (R222). -/
  | rdCfg
  /-- WR CFG, match 0x6004 mask 0xFFFF (R234). -/
  | wrCfg (wdata : Word)
  /-- RD CTRL, match 0x2008 mask 0xFFFF (R223). -/
  | rdCtrl
  /-- WR CTRL, match 0x6008 mask 0xFFFF (R224). -/
  | wrCtrl (wdata : Word)
  /-- RD ERR, match 0x200C mask 0xFFFF (R227). -/
  | rdErr
  /-- WR ERR, match 0x600C mask 0xFFFF (R228). -/
  | wrErr (wdata : Word)
  /-- RD NOW_MS, match 0x2010 mask 0xFFFF (R229). -/
  | rdNowMs
  /-- WR NOW_MS, match 0x6010 mask 0xFFFF (R234). -/
  | wrNowMs (wdata : Word)
  /-- RD NOW_US, match 0x2014 mask 0xFFFF (R230). -/
  | rdNowUs
  /-- WR NOW_US, match 0x6014 mask 0xFFFF (R234). -/
  | wrNowUs (wdata : Word)
  /-- RD TEMP, match 0x2018 mask 0xFFFF (R231). -/
  | rdTemp
  /-- WR TEMP, match 0x6018 mask 0xFFFF (R232). -/
  | wrTemp (wdata : Word)
  /-- RD PRESC, match 0x201C mask 0xFFFF (R233). -/
  | rdPresc
  /-- WR PRESC, match 0x601C mask 0xFFFF (R234). -/
  | wrPresc (wdata : Word)
  /-- RD CHc.DEBOUNCE_US, match 0x2200 mask 0xFE7F (R251). -/
  | rdChDebounceUs (c : ChanIx)
  /-- WR CHc.DEBOUNCE_US, match 0x6200 mask 0xFE7F (R252). -/
  | wrChDebounceUs (c : ChanIx) (wdata : Word)
  /-- RD CHc.WINDOW_MS, match 0x2204 mask 0xFE7F (R253). -/
  | rdChWindowMs (c : ChanIx)
  /-- WR CHc.WINDOW_MS, match 0x6204 mask 0xFE7F (R254). -/
  | wrChWindowMs (c : ChanIx) (wdata : Word)
  /-- RD CHc.TIMEOUT_MS, match 0x2208 mask 0xFE7F (R255). -/
  | rdChTimeoutMs (c : ChanIx)
  /-- WR CHc.TIMEOUT_MS, match 0x6208 mask 0xFE7F (R256). -/
  | wrChTimeoutMs (c : ChanIx) (wdata : Word)
  /-- RD CHc.PPR, match 0x220C mask 0xFE7F (R257). -/
  | rdChPpr (c : ChanIx)
  /-- WR CHc.PPR, match 0x620C mask 0xFE7F (R258). -/
  | wrChPpr (c : ChanIx) (wdata : Word)
  /-- RD CHc.PERIOD_MS, match 0x2210 mask 0xFE7F (R259). -/
  | rdChPeriodMs (c : ChanIx)
  /-- WR CHc.PERIOD_MS, match 0x6210 mask 0xFE7F (R260). -/
  | wrChPeriodMs (c : ChanIx) (wdata : Word)
  /-- RD CHc.RATE, match 0x2214 mask 0xFE7F (R261). -/
  | rdChRate (c : ChanIx)
  /-- WR CHc.RATE, match 0x6214 mask 0xFE7F (R262). -/
  | wrChRate (c : ChanIx) (wdata : Word)
  /-- RD CHc.ALPHA, match 0x2218 mask 0xFE7F (R263). -/
  | rdChAlpha (c : ChanIx)
  /-- WR CHc.ALPHA, match 0x6218 mask 0xFE7F (R264). -/
  | wrChAlpha (c : ChanIx) (wdata : Word)
  /-- RD CHc.THRESH, match 0x221C mask 0xFE7F (R265). -/
  | rdChThresh (c : ChanIx)
  /-- WR CHc.THRESH, match 0x621C mask 0xFE7F (R266). -/
  | wrChThresh (c : ChanIx) (wdata : Word)
  /-- RD CHc.MIN_ON_MS, match 0x2220 mask 0xFE7F (R267). -/
  | rdChMinOnMs (c : ChanIx)
  /-- WR CHc.MIN_ON_MS, match 0x6220 mask 0xFE7F (R268). -/
  | wrChMinOnMs (c : ChanIx) (wdata : Word)
  /-- RD CHc.MIN_OFF_MS, match 0x2224 mask 0xFE7F (R269). -/
  | rdChMinOffMs (c : ChanIx)
  /-- WR CHc.MIN_OFF_MS, match 0x6224 mask 0xFE7F (R270). -/
  | wrChMinOffMs (c : ChanIx) (wdata : Word)
  /-- RD CHc.KICK_DUTY, match 0x2228 mask 0xFE7F (R271). -/
  | rdChKickDuty (c : ChanIx)
  /-- WR CHc.KICK_DUTY, match 0x6228 mask 0xFE7F (R272). -/
  | wrChKickDuty (c : ChanIx) (wdata : Word)
  /-- RD CHc.KICK_MS, match 0x222C mask 0xFE7F (R273). -/
  | rdChKickMs (c : ChanIx)
  /-- WR CHc.KICK_MS, match 0x622C mask 0xFE7F (R274). -/
  | wrChKickMs (c : ChanIx) (wdata : Word)
  /-- RD CHc.HOLD_MS, match 0x2230 mask 0xFE7F (R275). -/
  | rdChHoldMs (c : ChanIx)
  /-- WR CHc.HOLD_MS, match 0x6230 mask 0xFE7F (R276). -/
  | wrChHoldMs (c : ChanIx) (wdata : Word)
  /-- RD CHc.SAFE, match 0x2234 mask 0xFE7F (R277). -/
  | rdChSafe (c : ChanIx)
  /-- WR CHc.SAFE, match 0x6234 mask 0xFE7F (R278). -/
  | wrChSafe (c : ChanIx) (wdata : Word)
  /-- RD CHc.CURVE0, match 0x2238 mask 0xFE7F (R279). -/
  | rdChCurve0 (c : ChanIx)
  /-- WR CHc.CURVE0, match 0x6238 mask 0xFE7F (R280). -/
  | wrChCurve0 (c : ChanIx) (wdata : Word)
  /-- RD CHc.CURVE1, match 0x223C mask 0xFE7F (R279). -/
  | rdChCurve1 (c : ChanIx)
  /-- WR CHc.CURVE1, match 0x623C mask 0xFE7F (R280). -/
  | wrChCurve1 (c : ChanIx) (wdata : Word)
  /-- RD CHc.CURVE2, match 0x2240 mask 0xFE7F (R279). -/
  | rdChCurve2 (c : ChanIx)
  /-- WR CHc.CURVE2, match 0x6240 mask 0xFE7F (R280). -/
  | wrChCurve2 (c : ChanIx) (wdata : Word)
  /-- RD CHc.CURVE3, match 0x2244 mask 0xFE7F (R279). -/
  | rdChCurve3 (c : ChanIx)
  /-- WR CHc.CURVE3, match 0x6244 mask 0xFE7F (R280). -/
  | wrChCurve3 (c : ChanIx) (wdata : Word)
  /-- RD CHc.CURVE4, match 0x2248 mask 0xFE7F (R279). -/
  | rdChCurve4 (c : ChanIx)
  /-- WR CHc.CURVE4, match 0x6248 mask 0xFE7F (R280). -/
  | wrChCurve4 (c : ChanIx) (wdata : Word)
  /-- RD CHc.LAST_TICK, match 0x224C mask 0xFE7F (R400). -/
  | rdChLastTick (c : ChanIx)
  /-- WR CHc.LAST_TICK, match 0x624C mask 0xFE7F (R306). -/
  | wrChLastTick (c : ChanIx) (wdata : Word)
  /-- RD CHc.COUNT, match 0x2250 mask 0xFE7F (R401). -/
  | rdChCount (c : ChanIx)
  /-- WR CHc.COUNT, match 0x6250 mask 0xFE7F (R306). -/
  | wrChCount (c : ChanIx) (wdata : Word)
  /-- RD CHc.BASE, match 0x2254 mask 0xFE7F (R402). -/
  | rdChBase (c : ChanIx)
  /-- WR CHc.BASE, match 0x6254 mask 0xFE7F (R306). -/
  | wrChBase (c : ChanIx) (wdata : Word)
  /-- RD CHc.RPM, match 0x2258 mask 0xFE7F (R403). -/
  | rdChRpm (c : ChanIx)
  /-- WR CHc.RPM, match 0x6258 mask 0xFE7F (R306). -/
  | wrChRpm (c : ChanIx) (wdata : Word)
  /-- RD CHc.DELTA, match 0x225C mask 0xFE7F (R404). -/
  | rdChDelta (c : ChanIx)
  /-- WR CHc.DELTA, match 0x625C mask 0xFE7F (R306). -/
  | wrChDelta (c : ChanIx) (wdata : Word)
  /-- RD CHc.WIN_END, match 0x2260 mask 0xFE7F (R405). -/
  | rdChWinEnd (c : ChanIx)
  /-- WR CHc.WIN_END, match 0x6260 mask 0xFE7F (R306). -/
  | wrChWinEnd (c : ChanIx) (wdata : Word)
  /-- RD CHc.LAST_PULSE_MS, match 0x2264 mask 0xFE7F (R406). -/
  | rdChLastPulseMs (c : ChanIx)
  /-- WR CHc.LAST_PULSE_MS, match 0x6264 mask 0xFE7F (R306). -/
  | wrChLastPulseMs (c : ChanIx) (wdata : Word)
  /-- RD CHc.LAST_EDGE_US, match 0x2268 mask 0xFE7F (R407). -/
  | rdChLastEdgeUs (c : ChanIx)
  /-- WR CHc.LAST_EDGE_US, match 0x6268 mask 0xFE7F (R306). -/
  | wrChLastEdgeUs (c : ChanIx) (wdata : Word)
  /-- RD CHc.CMD, match 0x226C mask 0xFE7F (R408). -/
  | rdChCmd (c : ChanIx)
  /-- WR CHc.CMD, match 0x626C mask 0xFE7F (R306). -/
  | wrChCmd (c : ChanIx) (wdata : Word)
  /-- RD CHc.OUT, match 0x2270 mask 0xFE7F (R409). -/
  | rdChOut (c : ChanIx)
  /-- WR CHc.OUT, match 0x6270 mask 0xFE7F (R306). -/
  | wrChOut (c : ChanIx) (wdata : Word)
  /-- RD CHc.T_TRANS, match 0x2274 mask 0xFE7F (R410). -/
  | rdChTTrans (c : ChanIx)
  /-- WR CHc.T_TRANS, match 0x6274 mask 0xFE7F (R306). -/
  | wrChTTrans (c : ChanIx) (wdata : Word)
  /-- RD CHc.KICK_END, match 0x2278 mask 0xFE7F (R411). -/
  | rdChKickEnd (c : ChanIx)
  /-- WR CHc.KICK_END, match 0x6278 mask 0xFE7F (R306). -/
  | wrChKickEnd (c : ChanIx) (wdata : Word)
  /-- RD CHc.INV_SINCE, match 0x227C mask 0xFE7F (R412). -/
  | rdChInvSince (c : ChanIx)
  /-- WR CHc.INV_SINCE, match 0x627C mask 0xFE7F (R306). -/
  | wrChInvSince (c : ChanIx) (wdata : Word)
  /-- EDGE, match 0x8000 mask 0xFFFC (R120). -/
  | edge (c : ChanIx)
  /-- TICK_US, match 0xC000 mask 0xFFFF (R200). -/
  | tickUs
  /-- RESET, match 0xC001 mask 0xFFFF (R205). -/
  | reset
  /-- RD/WR unmapped offset, match 0x2000 mask 0xB003 (R305). -/
  | unmapped (acc : Access) (a : BitVec 10)
  /-- RD/WR misaligned, match 0x2000 mask 0xB000 (R304). -/
  | misaligned (acc : Access) (a : Offset)
  /-- RD/WR bad size, match 0x0000 mask 0x8000 (R303). -/
  | badSize (acc : Access) (sz : BitVec 2) (a : Offset)
  deriving DecidableEq, Repr

end Sys2Proof
end

