-- ==== Sys2Proof/WellFormed.lean ====
section
/-! DEFINITION. Which operations a word can stand for. The register rows are well-formed for every channel number and
every operand, since a bus master can present any address (30_encoding.md R95); EDGE needs a channel that exists, and each
error-class row holds only the accesses that no row above it takes (30_encoding.md R99). -/

namespace Sys2Proof

/-- The offset field `A` of the unmapped row, from its bits [11:2] (R93: the access is word-aligned). -/
def unmappedOffset (a : BitVec 10) : Offset := a ++ 0#2

/-- `A` lies where rule R93 finds neither a global nor a channel register, for any NCH. -/
def outsideRegisters (a : Offset) : Bool :=
  a.extractLsb' 5 7 != 0#7 && a.extractLsb' 9 3 != 1#3

/-- The operation stands for some word of the block with NCH = `nch` (R95, R96, R99). -/
def wellFormed (nch : Nat) : Instr → Bool
  | .rdId | .wrId _ | .rdCfg | .wrCfg _ | .rdCtrl | .wrCtrl _ | .rdErr | .wrErr _ | .rdNowMs | .wrNowMs _
  | .rdNowUs | .wrNowUs _ | .rdTemp | .wrTemp _ | .rdPresc | .wrPresc _ | .rdChDebounceUs _
  | .wrChDebounceUs _ _ | .rdChWindowMs _ | .wrChWindowMs _ _ | .rdChTimeoutMs _ | .wrChTimeoutMs _ _
  | .rdChPpr _ | .wrChPpr _ _ | .rdChPeriodMs _ | .wrChPeriodMs _ _ | .rdChRate _ | .wrChRate _ _
  | .rdChAlpha _ | .wrChAlpha _ _ | .rdChThresh _ | .wrChThresh _ _ | .rdChMinOnMs _ | .wrChMinOnMs _ _
  | .rdChMinOffMs _ | .wrChMinOffMs _ _ | .rdChKickDuty _ | .wrChKickDuty _ _ | .rdChKickMs _
  | .wrChKickMs _ _ | .rdChHoldMs _ | .wrChHoldMs _ _ | .rdChSafe _ | .wrChSafe _ _ | .rdChCurve0 _
  | .wrChCurve0 _ _ | .rdChCurve1 _ | .wrChCurve1 _ _ | .rdChCurve2 _ | .wrChCurve2 _ _ | .rdChCurve3 _
  | .wrChCurve3 _ _ | .rdChCurve4 _ | .wrChCurve4 _ _ | .rdChLastTick _ | .wrChLastTick _ _ | .rdChCount _
  | .wrChCount _ _ | .rdChBase _ | .wrChBase _ _ | .rdChRpm _ | .wrChRpm _ _ | .rdChDelta _ | .wrChDelta _ _
  | .rdChWinEnd _ | .wrChWinEnd _ _ | .rdChLastPulseMs _ | .wrChLastPulseMs _ _ | .rdChLastEdgeUs _
  | .wrChLastEdgeUs _ _ | .rdChCmd _ | .wrChCmd _ _ | .rdChOut _ | .wrChOut _ _ | .rdChTTrans _
  | .wrChTTrans _ _ | .rdChKickEnd _ | .wrChKickEnd _ _ | .rdChInvSince _ | .wrChInvSince _ _
  | .tickUs | .reset => true
  | .edge c => decide (c.toNat < nch)
  | .unmapped _ a => outsideRegisters (unmappedOffset a)
  | .misaligned _ a => a.extractLsb' 0 2 != 0#2
  | .badSize _ sz _ => sz != 2#2

end Sys2Proof
end

