-- ==== Sys2Proof/Decode.lean ====
section
/-! DEFINITION. The decoder of 30_encoding.md R95, carried down to the rows of the opcode table by the offset decoding of
R93, and the encoder of R99. Both are total. -/

namespace Sys2Proof

/-- The operation word's field K, bits [15:14] (R91). -/
def opKind (w : OpWord) : BitVec 2 := w.extractLsb' 14 2

/-- The operation word's field SZ, bits [13:12] (R91). -/
def opSize (w : OpWord) : BitVec 2 := w.extractLsb' 12 2

/-- The operation word's field A, bits [11:0] (R91). -/
def opOffset (w : OpWord) : Offset := w.extractLsb' 0 12

/-- The offset of register `rel` of channel `c`: `0x200 | (c << 7) | rel` (R22, R99). -/
def chanOffset (c : ChanIx) (rel : BitVec 7) : Offset := 0x200#12 ||| (c.setWidth 12 <<< 7) ||| rel.setWidth 12

/-- The row of a word-sized aligned access to global register index `ix` = A[4:2] (R93). -/
def decodeGlobal (acc : Access) (ix : BitVec 3) : Instr :=
  match acc, ix.toNat with
  | .rd, 0 => .rdId
  | .rd, 1 => .rdCfg
  | .rd, 2 => .rdCtrl
  | .rd, 3 => .rdErr
  | .rd, 4 => .rdNowMs
  | .rd, 5 => .rdNowUs
  | .rd, 6 => .rdTemp
  | .rd, _ => .rdPresc
  | .wr v, 0 => .wrId v
  | .wr v, 1 => .wrCfg v
  | .wr v, 2 => .wrCtrl v
  | .wr v, 3 => .wrErr v
  | .wr v, 4 => .wrNowMs v
  | .wr v, 5 => .wrNowUs v
  | .wr v, 6 => .wrTemp v
  | .wr v, _ => .wrPresc v

/-- The row of a word-sized aligned access to register `rel` = A[6:2] of channel `c` (R22, R93). -/
def decodeChannel (acc : Access) (c : ChanIx) (rel : BitVec 5) : Instr :=
  match acc, rel.toNat with
  | .rd, 0 => .rdChDebounceUs c
  | .rd, 1 => .rdChWindowMs c
  | .rd, 2 => .rdChTimeoutMs c
  | .rd, 3 => .rdChPpr c
  | .rd, 4 => .rdChPeriodMs c
  | .rd, 5 => .rdChRate c
  | .rd, 6 => .rdChAlpha c
  | .rd, 7 => .rdChThresh c
  | .rd, 8 => .rdChMinOnMs c
  | .rd, 9 => .rdChMinOffMs c
  | .rd, 10 => .rdChKickDuty c
  | .rd, 11 => .rdChKickMs c
  | .rd, 12 => .rdChHoldMs c
  | .rd, 13 => .rdChSafe c
  | .rd, 14 => .rdChCurve0 c
  | .rd, 15 => .rdChCurve1 c
  | .rd, 16 => .rdChCurve2 c
  | .rd, 17 => .rdChCurve3 c
  | .rd, 18 => .rdChCurve4 c
  | .rd, 19 => .rdChLastTick c
  | .rd, 20 => .rdChCount c
  | .rd, 21 => .rdChBase c
  | .rd, 22 => .rdChRpm c
  | .rd, 23 => .rdChDelta c
  | .rd, 24 => .rdChWinEnd c
  | .rd, 25 => .rdChLastPulseMs c
  | .rd, 26 => .rdChLastEdgeUs c
  | .rd, 27 => .rdChCmd c
  | .rd, 28 => .rdChOut c
  | .rd, 29 => .rdChTTrans c
  | .rd, 30 => .rdChKickEnd c
  | .rd, _ => .rdChInvSince c
  | .wr v, 0 => .wrChDebounceUs c v
  | .wr v, 1 => .wrChWindowMs c v
  | .wr v, 2 => .wrChTimeoutMs c v
  | .wr v, 3 => .wrChPpr c v
  | .wr v, 4 => .wrChPeriodMs c v
  | .wr v, 5 => .wrChRate c v
  | .wr v, 6 => .wrChAlpha c v
  | .wr v, 7 => .wrChThresh c v
  | .wr v, 8 => .wrChMinOnMs c v
  | .wr v, 9 => .wrChMinOffMs c v
  | .wr v, 10 => .wrChKickDuty c v
  | .wr v, 11 => .wrChKickMs c v
  | .wr v, 12 => .wrChHoldMs c v
  | .wr v, 13 => .wrChSafe c v
  | .wr v, 14 => .wrChCurve0 c v
  | .wr v, 15 => .wrChCurve1 c v
  | .wr v, 16 => .wrChCurve2 c v
  | .wr v, 17 => .wrChCurve3 c v
  | .wr v, 18 => .wrChCurve4 c v
  | .wr v, 19 => .wrChLastTick c v
  | .wr v, 20 => .wrChCount c v
  | .wr v, 21 => .wrChBase c v
  | .wr v, 22 => .wrChRpm c v
  | .wr v, 23 => .wrChDelta c v
  | .wr v, 24 => .wrChWinEnd c v
  | .wr v, 25 => .wrChLastPulseMs c v
  | .wr v, 26 => .wrChLastEdgeUs c v
  | .wr v, 27 => .wrChCmd c v
  | .wr v, 28 => .wrChOut c v
  | .wr v, 29 => .wrChTTrans c v
  | .wr v, 30 => .wrChKickEnd c v
  | .wr v, _ => .wrChInvSince c v

/-- The row of a bus access with size `sz` and offset `a` (R93, R96): the register rows first, then the error classes.
Every access has one; whether channel `c` exists is decided by the access itself (R302). -/
def decodeBus (acc : Access) (sz : BitVec 2) (a : Offset) : Instr :=
  if sz ≠ 2#2 then .badSize acc sz a
  else if a.extractLsb' 0 2 ≠ 0#2 then .misaligned acc a
  else if a.extractLsb' 5 7 = 0#7 then decodeGlobal acc (a.extractLsb' 2 3)
  else if a.extractLsb' 9 3 = 1#3 then decodeChannel acc (a.extractLsb' 7 2) (a.extractLsb' 2 5)
  else .unmapped acc (a.extractLsb' 2 10)

/-- The decoder of R95 for a block with NCH = `nch`: total, refusing by name the EDGE and SYS words that name no event. -/
def decode (nch : Nat) (p : Presented) : Except DecodeError Instr :=
  if opKind p.word = 0#2 then .ok (decodeBus .rd (opSize p.word) (opOffset p.word))
  else if opKind p.word = 1#2 then .ok (decodeBus (.wr p.wdata) (opSize p.word) (opOffset p.word))
  else if opKind p.word = 2#2 then
    if opSize p.word = 0#2 ∧ (opOffset p.word).extractLsb' 2 10 = 0#10 ∧ ((opOffset p.word).extractLsb' 0 2).toNat < nch
    then .ok (.edge ((opOffset p.word).extractLsb' 0 2))
    else .error .noSuchTachInput
  else if p.word = 0xC000#16 then .ok .tickUs
  else if p.word = 0xC001#16 then .ok .reset
  else .error .noSuchSystemEvent

/-- The operation that a table row's bits give: the word is bits 15..0 and WDATA bits 47..16 (log 7); bits at `nbits` and
above are 0. -/
def presentedOfBits (nbits w : Nat) : Presented :=
  { word := BitVec.ofNat 16 (w % 2 ^ nbits), wdata := BitVec.ofNat 32 (w % 2 ^ nbits / 2 ^ 16) }

/-- The instruction the decoder reads from a table row's bits, for NCH = `Config.nch` (log 3, log 7). -/
def decodeTableWord (nbits w : Nat) : Option Instr :=
  match decode Config.nch (presentedOfBits nbits w) with
  | .ok i => some i
  | .error _ => none

/-- RD of offset `o`: the word `0x2000 | o` (R99). A read carries no WDATA, shown as 0 (log 8). -/
def presentRd (o : Offset) : Presented := { word := 0x2000#16 ||| o.setWidth 16, wdata := 0#32 }

/-- WR of `v` at offset `o`: the word `0x6000 | o` with WDATA `v` beside it (R99, R97). -/
def presentWr (o : Offset) (v : Word) : Presented := { word := 0x6000#16 ||| o.setWidth 16, wdata := v }

/-- A bus access of any size: the patterns BUS-R and BUS-W (R92). -/
def presentBus (acc : Access) (sz : BitVec 2) (a : Offset) : Presented :=
  match acc with
  | .rd => { word := 0#2 ++ sz ++ a, wdata := 0#32 }
  | .wr v => { word := 1#2 ++ sz ++ a, wdata := v }

/-- The word, and the WDATA beside it, of each operation (R92, R99). -/
def encode : Instr → Presented
  | .rdId => presentRd 0x000#12
  | .wrId wdata => presentWr 0x000#12 wdata
  | .rdCfg => presentRd 0x004#12
  | .wrCfg wdata => presentWr 0x004#12 wdata
  | .rdCtrl => presentRd 0x008#12
  | .wrCtrl wdata => presentWr 0x008#12 wdata
  | .rdErr => presentRd 0x00C#12
  | .wrErr wdata => presentWr 0x00C#12 wdata
  | .rdNowMs => presentRd 0x010#12
  | .wrNowMs wdata => presentWr 0x010#12 wdata
  | .rdNowUs => presentRd 0x014#12
  | .wrNowUs wdata => presentWr 0x014#12 wdata
  | .rdTemp => presentRd 0x018#12
  | .wrTemp wdata => presentWr 0x018#12 wdata
  | .rdPresc => presentRd 0x01C#12
  | .wrPresc wdata => presentWr 0x01C#12 wdata
  | .rdChDebounceUs c => presentRd (chanOffset c 0x00#7)
  | .wrChDebounceUs c wdata => presentWr (chanOffset c 0x00#7) wdata
  | .rdChWindowMs c => presentRd (chanOffset c 0x04#7)
  | .wrChWindowMs c wdata => presentWr (chanOffset c 0x04#7) wdata
  | .rdChTimeoutMs c => presentRd (chanOffset c 0x08#7)
  | .wrChTimeoutMs c wdata => presentWr (chanOffset c 0x08#7) wdata
  | .rdChPpr c => presentRd (chanOffset c 0x0C#7)
  | .wrChPpr c wdata => presentWr (chanOffset c 0x0C#7) wdata
  | .rdChPeriodMs c => presentRd (chanOffset c 0x10#7)
  | .wrChPeriodMs c wdata => presentWr (chanOffset c 0x10#7) wdata
  | .rdChRate c => presentRd (chanOffset c 0x14#7)
  | .wrChRate c wdata => presentWr (chanOffset c 0x14#7) wdata
  | .rdChAlpha c => presentRd (chanOffset c 0x18#7)
  | .wrChAlpha c wdata => presentWr (chanOffset c 0x18#7) wdata
  | .rdChThresh c => presentRd (chanOffset c 0x1C#7)
  | .wrChThresh c wdata => presentWr (chanOffset c 0x1C#7) wdata
  | .rdChMinOnMs c => presentRd (chanOffset c 0x20#7)
  | .wrChMinOnMs c wdata => presentWr (chanOffset c 0x20#7) wdata
  | .rdChMinOffMs c => presentRd (chanOffset c 0x24#7)
  | .wrChMinOffMs c wdata => presentWr (chanOffset c 0x24#7) wdata
  | .rdChKickDuty c => presentRd (chanOffset c 0x28#7)
  | .wrChKickDuty c wdata => presentWr (chanOffset c 0x28#7) wdata
  | .rdChKickMs c => presentRd (chanOffset c 0x2C#7)
  | .wrChKickMs c wdata => presentWr (chanOffset c 0x2C#7) wdata
  | .rdChHoldMs c => presentRd (chanOffset c 0x30#7)
  | .wrChHoldMs c wdata => presentWr (chanOffset c 0x30#7) wdata
  | .rdChSafe c => presentRd (chanOffset c 0x34#7)
  | .wrChSafe c wdata => presentWr (chanOffset c 0x34#7) wdata
  | .rdChCurve0 c => presentRd (chanOffset c 0x38#7)
  | .wrChCurve0 c wdata => presentWr (chanOffset c 0x38#7) wdata
  | .rdChCurve1 c => presentRd (chanOffset c 0x3C#7)
  | .wrChCurve1 c wdata => presentWr (chanOffset c 0x3C#7) wdata
  | .rdChCurve2 c => presentRd (chanOffset c 0x40#7)
  | .wrChCurve2 c wdata => presentWr (chanOffset c 0x40#7) wdata
  | .rdChCurve3 c => presentRd (chanOffset c 0x44#7)
  | .wrChCurve3 c wdata => presentWr (chanOffset c 0x44#7) wdata
  | .rdChCurve4 c => presentRd (chanOffset c 0x48#7)
  | .wrChCurve4 c wdata => presentWr (chanOffset c 0x48#7) wdata
  | .rdChLastTick c => presentRd (chanOffset c 0x4C#7)
  | .wrChLastTick c wdata => presentWr (chanOffset c 0x4C#7) wdata
  | .rdChCount c => presentRd (chanOffset c 0x50#7)
  | .wrChCount c wdata => presentWr (chanOffset c 0x50#7) wdata
  | .rdChBase c => presentRd (chanOffset c 0x54#7)
  | .wrChBase c wdata => presentWr (chanOffset c 0x54#7) wdata
  | .rdChRpm c => presentRd (chanOffset c 0x58#7)
  | .wrChRpm c wdata => presentWr (chanOffset c 0x58#7) wdata
  | .rdChDelta c => presentRd (chanOffset c 0x5C#7)
  | .wrChDelta c wdata => presentWr (chanOffset c 0x5C#7) wdata
  | .rdChWinEnd c => presentRd (chanOffset c 0x60#7)
  | .wrChWinEnd c wdata => presentWr (chanOffset c 0x60#7) wdata
  | .rdChLastPulseMs c => presentRd (chanOffset c 0x64#7)
  | .wrChLastPulseMs c wdata => presentWr (chanOffset c 0x64#7) wdata
  | .rdChLastEdgeUs c => presentRd (chanOffset c 0x68#7)
  | .wrChLastEdgeUs c wdata => presentWr (chanOffset c 0x68#7) wdata
  | .rdChCmd c => presentRd (chanOffset c 0x6C#7)
  | .wrChCmd c wdata => presentWr (chanOffset c 0x6C#7) wdata
  | .rdChOut c => presentRd (chanOffset c 0x70#7)
  | .wrChOut c wdata => presentWr (chanOffset c 0x70#7) wdata
  | .rdChTTrans c => presentRd (chanOffset c 0x74#7)
  | .wrChTTrans c wdata => presentWr (chanOffset c 0x74#7) wdata
  | .rdChKickEnd c => presentRd (chanOffset c 0x78#7)
  | .wrChKickEnd c wdata => presentWr (chanOffset c 0x78#7) wdata
  | .rdChInvSince c => presentRd (chanOffset c 0x7C#7)
  | .wrChInvSince c wdata => presentWr (chanOffset c 0x7C#7) wdata
  | .edge c => { word := 0x8000#16 ||| c.setWidth 16, wdata := 0#32 }
  | .tickUs => { word := 0xC000#16, wdata := 0#32 }
  | .reset => { word := 0xC001#16, wdata := 0#32 }
  | .unmapped acc a => presentBus acc 2#2 (unmappedOffset a)
  | .misaligned acc a => presentBus acc 2#2 a
  | .badSize acc sz a => presentBus acc sz a

/-- The agent that presents an operation, read from the kind field of its word (R9, R90, R91). -/
def agentOf (i : Instr) : Agent :=
  let w := (encode i).word
  if opKind w = 2#2 then .edge (w.extractLsb' 0 2)
  else if opKind w = 3#2 then (if w = 0xC001#16 then .reset else .timebase)
  else .host

end Sys2Proof
end

