-- ==== Sys2Proof/Machine/State.lean ====
section
/-! DEFINITION. The architectural state of the TLFAN block (10_state.md), every piece of it, as plain data; the reasons a
step can stop; the state after reset (10_state.md R49, R65; 70_reset_and_hazards.md R340). -/

namespace Sys2Proof.Machine

/-- Why the machine stops with a fault: never. "No condition of the block halts it" (60_exceptions.md R300, R307), so no
definition raises a fault and the type has no constructor. -/
inductive Fault where
  deriving DecidableEq, Repr

/-- Why a step is refused. -/
inductive Refusal where
  /-- Raised by an arm of `exec` that has no meaning yet; no arm raises it. Safe: nothing is claimed of such a step. -/
  | notModelled (mnemonic : String)
  /-- "no such tach input": raised by `step` for an EDGE word that the decoder refuses, and by EDGE for a channel
  c >= NCH (30_encoding.md R95, R96; log 6). Safe: no physical event has such a word. -/
  | noSuchTachInput
  /-- "no such system event": raised by `step` for a SYS word that the decoder refuses (30_encoding.md R95, R96). Safe:
  no physical event has such a word. -/
  | noSuchSystemEvent
  deriving DecidableEq, Repr

/-- The four bus-error codes that ERR.CODE can record (10_state.md R26, 60_exceptions.md R300). -/
inductive BusErr where
  | unmapped
  | size
  | misalign
  | roWrite
  deriving DecidableEq, Repr

/-- The response of a bus access (30_encoding.md R91). -/
inductive Status where
  | ok
  | err
  deriving DecidableEq, Repr

/-- What an access returns to the bus master: the response and, for a read, RDATA (30_encoding.md R91). -/
structure Response where
  status : Status
  rdata : Option Word
  deriving DecidableEq, Repr

/-- The ERR register (10_state.md R26). `code = none` is CODE 0; codes 5 to 15 are never recorded (log 16). -/
structure ErrReg where
  code : Option BusErr
  offset : Offset
  wr : Bool
  ovf : Bool
  deriving DecidableEq, Repr

/-- The TEMP register: T, signed Q8.8, and VALID (10_state.md R29). -/
structure Temp where
  t : BitVec 16
  valid : Bool
  deriving DecidableEq, Repr

/-- The ON/OFF latch of a channel (10_state.md R59). -/
inductive Latch where
  | off
  | on
  deriving DecidableEq, Repr

/-- A curve point: X in 1/256 degrees C, signed, and Y in 1/256 percent (10_state.md R47). -/
structure CurvePoint where
  x : BitVec 16
  y : BitVec 16
  deriving DecidableEq, Repr

/-- The configuration registers of a channel (10_state.md R33 to R47). -/
structure ChanConfig where
  debounceUs : BitVec 32
  windowMs : BitVec 32
  timeoutMs : BitVec 32
  ppr : BitVec 8
  periodMs : BitVec 31
  rate : BitVec 24
  alpha : BitVec 17
  offBelow : BitVec 16
  onAbove : BitVec 16
  minOnMs : BitVec 32
  minOffMs : BitVec 32
  kickDuty : BitVec 16
  kickMs : BitVec 31
  holdMs : BitVec 32
  safeDuty : BitVec 16
  actEps : BitVec 16
  curve0 : CurvePoint
  curve1 : CurvePoint
  curve2 : CurvePoint
  curve3 : CurvePoint
  curve4 : CurvePoint
  deriving DecidableEq, Repr

/-- The pulse accumulator of a channel (10_state.md R51, R56, R57). -/
structure PulseState where
  count : BitVec 32
  lastEdgeUs : BitVec 32
  lastPulseMs : BitVec 32
  deriving DecidableEq, Repr

/-- The RPM estimate of a channel (10_state.md R52 to R55). -/
structure EstState where
  base : BitVec 32
  rpm : BitVec 32
  delta : BitVec 32
  winEnd : BitVec 32
  deriving DecidableEq, Repr

/-- The fan runtime state of a channel (10_state.md R50, R58 to R62). -/
structure CtlState where
  lastTick : BitVec 32
  raw : BitVec 16
  filt : BitVec 16
  outq : BitVec 16
  out : BitVec 7
  active : Bool
  latch : Latch
  kick : Bool
  inv : Bool
  failsafe : Bool
  tTrans : BitVec 32
  kickEnd : BitVec 32
  invSince : BitVec 32
  deriving DecidableEq, Repr

/-- One channel: its configuration and its runtime state. -/
structure Channel where
  cfg : ChanConfig
  pulse : PulseState
  est : EstState
  ctl : CtlState
  deriving DecidableEq, Repr

/-- The state of the block, with its bus port and the operations its agents present next. -/
structure State where
  /-- CTRL.EN (R25). -/
  en : Bool
  /-- ERR (R26). -/
  err : ErrReg
  /-- NOW_MS (R27). -/
  nowMs : BitVec 32
  /-- NOW_US (R28). -/
  nowUs : BitVec 32
  /-- TEMP (R29). -/
  temp : Temp
  /-- PRESC (R30). -/
  presc : BitVec 10
  /-- The channels c = 0, 1, …; their number is NCH, which CFG shows (R24, R31; log 3). -/
  chans : List Channel
  /-- MODEL's own: what the last RD or WR returned on the bus port (R68, R91; log 4). -/
  port : Option Response
  /-- MODEL's own: the operations that the agents present next, in the total order of R71 (log 1). -/
  pending : List Presented
  deriving DecidableEq, Repr

/-- NCH, the channel count (R11, R24). -/
def State.nch (s : State) : Nat := s.chans.length

/-- The channel after reset: the configuration of R49 and the runtime state of R65 with nm = nu = 0. -/
def Channel.reset : Channel where
  cfg :=
    { debounceUs := 0#32, windowMs := 1#32, timeoutMs := 0#32, ppr := 1#8, periodMs := 1#31, rate := 0#24,
      alpha := 0#17, offBelow := 0#16, onAbove := 0#16, minOnMs := 0#32, minOffMs := 0#32, kickDuty := 0#16,
      kickMs := 0#31, holdMs := 0#32, safeDuty := 0#16, actEps := 0#16,
      curve0 := ⟨0#16, 0#16⟩, curve1 := ⟨0#16, 0#16⟩, curve2 := ⟨0#16, 0#16⟩, curve3 := ⟨0#16, 0#16⟩,
      curve4 := ⟨0#16, 0#16⟩ }
  pulse := { count := 0#32, lastEdgeUs := 0#32, lastPulseMs := 0#32 }
  est := { base := 0#32, rpm := 0xFFFFFFFF#32, delta := 0#32, winEnd := 0#32 }
  ctl :=
    { lastTick := 0#32, raw := 0#16, filt := 0#16, outq := 0#16, out := 0#7, active := false, latch := .off,
      kick := false, inv := false, failsafe := false, tTrans := 0#32, kickEnd := 0#32, invSince := 0#32 }

/-- The state after reset of a block with NCH = `nch` (R49, R65, R340): no access answered and no operation pending. -/
def State.resetWith (nch : Nat) : State :=
  { en := false, err := { code := none, offset := 0#12, wr := false, ovf := false }, nowMs := 0#32, nowUs := 0#32,
    temp := { t := 0#16, valid := false }, presc := 0#10, chans := List.replicate nch Channel.reset,
    port := none, pending := [] }

/-- The machine right after reset, with the channel count of log 3. -/
def State.reset : State := State.resetWith Config.nch

end Sys2Proof.Machine
end

