-- ==== Sys2Proof/Machine/Operands.lean ====
section
/-! DEFINITION. The arithmetic of 00_scope.md R14, the legalisation of written fields (10_state.md R32), and the layout of
every register as the 32-bit word a read returns and the fields a write takes (10_state.md R23 to R62; 30_encoding.md R94). -/

namespace Sys2Proof.Machine

/-! ### Arithmetic (R13, R14) -/

/-- `dist(a, b)`: the elapsed time from stamp `b` to stamp `a`, modulo 2^32 (R14). -/
def dist (a b : Word) : Word := a - b

/-- `sdiff(a, b)`: the signed difference of two stamps (R14). -/
def sdiff (a b : Word) : Int := (a - b).toInt

/-- `clamp(v, lo, hi)` = min(max(v, lo), hi) (R14). -/
def clamp (v lo hi : Int) : Int := min (max v lo) hi

/-- `rdiv(n, d)` for d > 0: nearest, ties away from zero (R14). -/
def rdiv (n d : Int) : Int :=
  if 0 ≤ n then (2 * n + d) / (2 * d) else -((2 * (-n) + d) / (2 * d))

/-! ### Legalisation of a written field (R32) -/

/-- `min1(v)`: 1 if v = 0, else v (R32). -/
def min1 {n : Nat} (v : BitVec n) : BitVec n := if v = 0#n then 1#n else v

/-- `cap(v, m)` = min(v, m) (R32). -/
def cap {n : Nat} (v : BitVec n) (m : Nat) : BitVec n := if v.toNat ≤ m then v else BitVec.ofNat n m

/-- A duty field in the low half of a written word, capped at 100 % (R40, R43, R46). -/
def lowDuty (v : Word) : BitVec 16 := cap (v.extractLsb' 0 16) Config.dutyMax

/-- A duty field in the high half of a written word, capped at 100 % (R40, R46, R47). -/
def highDuty (v : Word) : BitVec 16 := cap (v.extractLsb' 16 16) Config.dutyMax

/-- The curve point of a written CURVEi word: X raw, Y capped at 100 % (R47, R280). -/
def pointOfWord (v : Word) : CurvePoint := { x := v.extractLsb' 0 16, y := highDuty v }

/-- The TEMP fields of a written word; bits [31:17] are ignored (R29, R232). -/
def tempOfWord (v : Word) : Temp := { t := v.extractLsb' 0 16, valid := v.getLsbD 16 }

/-! ### Read values (R13: `a ++ b` has `a` in the high bits) -/

/-- ERR.CODE (R26). -/
def codeBits : Option BusErr → BitVec 4
  | none => 0#4
  | some .unmapped => 1#4
  | some .size => 2#4
  | some .misalign => 3#4
  | some .roWrite => 4#4

/-- The ERR register: OVF, WR, OFFSET and CODE (R26, R227). -/
def errWord (e : ErrReg) : Word :=
  BitVec.ofBool e.ovf ++ 0#10 ++ BitVec.ofBool e.wr ++ e.offset ++ 0#4 ++ codeBits e.code

/-- The CFG register: NCH[2:0], zero-extended (R24, R222). -/
def cfgWord (s : State) : Word := (BitVec.ofNat 3 s.nch).setWidth 32

/-- The CTRL register: EN in bit 0 (R25, R223). -/
def ctrlWord (s : State) : Word := (BitVec.ofBool s.en).setWidth 32

/-- The TEMP register: VALID and the raw bits of T (R29, R231). -/
def tempWord (p : Temp) : Word := 0#15 ++ BitVec.ofBool p.valid ++ p.t

/-- The PRESC register: the prescaler in bits [9:0] (R30, R233). -/
def prescWord (s : State) : Word := s.presc.setWidth 32

/-- The THRESH register: ON_ABOVE and OFF_BELOW (R40, R265). -/
def threshWord (k : ChanConfig) : Word := k.onAbove ++ k.offBelow

/-- The SAFE register: ACT_EPS and SAFE_DUTY (R46, R277). -/
def safeWord (k : ChanConfig) : Word := k.actEps ++ k.safeDuty

/-- A CURVEi register: Y and X (R47, R279). -/
def pointWord (p : CurvePoint) : Word := p.y ++ p.x

/-- The CMD register: FILT and RAW (R58, R408). -/
def cmdWord (u : CtlState) : Word := u.filt ++ u.raw

/-- The LATCH bit: 0 = OFF, 1 = ON (R59). -/
def latchBit : Latch → BitVec 1
  | .off => 0#1
  | .on => 1#1

/-- The OUT register: FAILSAFE, INV, KICK, LATCH, ACTIVE, OUT and OUTQ (R59, R409). -/
def outWord (u : CtlState) : Word :=
  0#3 ++ BitVec.ofBool u.failsafe ++ BitVec.ofBool u.inv ++ BitVec.ofBool u.kick ++ latchBit u.latch ++
    BitVec.ofBool u.active ++ 0#1 ++ u.out ++ u.outq

/-- Byte lane `k` of the 32-bit data path carries bits [8k+7:8k] (R73, little-endian). -/
def byteLane (v : Word) (k : Fin 4) : BitVec 8 := v.extractLsb' (8 * k.val) 8

/-- The word on the data path whose lanes 0 to 3 are the given bytes (R73). -/
def wordOfLanes (b0 b1 b2 b3 : BitVec 8) : Word := b3 ++ b2 ++ b1 ++ b0

end Sys2Proof.Machine
end

