-- ==== Sys2Proof/Machine/Flags.lean ====
section
/-! DEFINITION. The conditions under which the block's flags change (10_state.md R63): INV and FAILSAFE, LATCH, KICK and
ACTIVE. TEMP.VALID is written by the host alone (`tempOfWord`). -/

namespace Sys2Proof.Machine

/-- The invalid hold has expired: the time since the first invalid tick exceeds HOLD_MS, strictly (R162). -/
def holdExpired (k : ChanConfig) (now invSince : Word) : Bool :=
  decide (k.holdMs.toNat < (dist now invSince).toNat)

/-- OFF to ON: forced by FAILSAFE, or once dwell-in-OFF has elapsed and RAW reaches ON_ABOVE (R165). -/
def turnsOn (k : ChanConfig) (now : Word) (u : CtlState) : Bool :=
  u.failsafe || (decide (k.minOffMs.toNat ≤ (dist now u.tTrans).toNat) && decide (k.onAbove.toNat ≤ u.raw.toNat))

/-- ON to OFF: not in the fail-safe, dwell-in-ON elapsed and RAW below OFF_BELOW (R165). -/
def turnsOff (k : ChanConfig) (now : Word) (u : CtlState) : Bool :=
  !u.failsafe && decide (k.minOnMs.toNat ≤ (dist now u.tTrans).toNat) && decide (u.raw.toNat < k.offBelow.toNat)

/-- The kick is in force at this tick: KICK is set and `now` is before KICK_END (R167). -/
def kickInForce (now : Word) (u : CtlState) : Bool :=
  u.kick && decide (0 < sdiff u.kickEnd now)

/-- ACTIVE: the final output exceeds ACT_EPS, strictly (R168). -/
def activeOf (k : ChanConfig) (outq : BitVec 16) : Bool :=
  decide (k.actEps.toNat < outq.toNat)

end Sys2Proof.Machine
end

