-- ==== Sys2Proof/Machine/Ops.lean ====
section
/-! DEFINITION. The shared operations: reading and changing a channel, the next pending operation, the bus error (the only
exception the block has, 60_exceptions.md R300 to R306), the access envelope (44_bus_global.md R220), and start
(44_bus_global.md R226). There is no return from an exception (60_exceptions.md R312). -/

namespace Sys2Proof.Machine

/-! ### Channels -/

/-- Channel `c`. Every use is guarded by c < NCH (R31); the reset channel stands for an absent one. -/
def chanAt (s : State) (c : ChanIx) : Channel := (s.chans[c.toNat]?).getD Channel.reset

/-- Apply `f` to channel `c` and to nothing else (R31: channels are independent). -/
def updateChan (c : ChanIx) (f : Channel → Channel) (s : State) : State :=
  { s with chans := s.chans.modify c.toNat f }

/-- The PWM output of channel `c`: OUT while the block runs, else 0 (R66). -/
def pwmDuty (s : State) (c : ChanIx) : BitVec 7 := if s.en then (chanAt s c).ctl.out else 0#7

/-! ### The operations the agents present -/

/-- The operation presented next, and the state in which it runs: the operation is taken from the list (log 1). -/
def nextOperation (s : State) : Option (Presented × State) :=
  match s.pending with
  | [] => none
  | p :: rest => some (p, { s with pending := rest })

/-- The refusal that names the decoder's reason (R95). -/
def refusalOf : DecodeError → Refusal
  | .noSuchTachInput => .noSuchTachInput
  | .noSuchSystemEvent => .noSuchSystemEvent

/-! ### Bus errors (R300 to R306) -/

/-- The access is a write. -/
def isWrite : Access → Bool
  | .rd => false
  | .wr _ => true

/-- RecordError: the first error since the last clear is kept, a later one only sets OVF (R301). -/
def recordError (code : BusErr) (a : Offset) (wr : Bool) (e : ErrReg) : ErrReg :=
  match e.code with
  | none => { code := some code, offset := a, wr := wr, ovf := false }
  | some _ => { e with ovf := true }

/-- The access ends with this response and, for a read, this RDATA (R91). -/
def answer (st : Status) (rdata : Option Word) (s : State) : State := { s with port := some ⟨st, rdata⟩ }

/-- BusError: record the error, respond ERR with RDATA 0 for a read, and change nothing else (R300). -/
def busError (code : BusErr) (a : Offset) (wr : Bool) (s : State) : State :=
  answer .err (if wr then none else some 0#32) { s with err := recordError code a wr s.err }

/-- Mapped(A): a global register, or a register of a channel that exists (R302, R93). -/
def mapped (nch : Nat) (a : Offset) : Bool :=
  a.extractLsb' 5 7 == 0#7 || (a.extractLsb' 9 3 == 1#3 && decide ((a.extractLsb' 7 2).toNat < nch))

/-- ReadOnly(A): ID, CFG, NOW_MS, NOW_US, PRESC and the status registers of a channel (R302). -/
def readOnly (a : Offset) : Bool :=
  a == 0x000#12 || a == 0x004#12 || a == 0x010#12 || a == 0x014#12 || a == 0x01C#12 ||
    (a.extractLsb' 9 3 == 1#3 && decide (0x4C ≤ (a.extractLsb' 0 7).toNat))

/-- BusCheck: the error an access raises, the first of SIZE, MISALIGN, UNMAPPED, RO_WRITE (R302). -/
def busCheck (nch : Nat) (sz : BitVec 2) (a : Offset) (wr : Bool) : Option BusErr :=
  if sz ≠ 2#2 then some .size
  else if a.extractLsb' 0 2 ≠ 0#2 then some .misalign
  else if !mapped nch a then some .unmapped
  else if wr && readOnly a then some .roWrite
  else none

/-! ### The access envelope (R220) -/

/-- A word-sized RD at offset `a` whose register reads as `value` (R220). -/
def busRead (a : Offset) (value : State → Word) (s : State) : State :=
  match busCheck s.nch 2#2 a false with
  | some e => busError e a false s
  | none => answer .ok (some (value s)) s

/-- A word-sized WR at offset `a` whose write rule is `write` (R220). -/
def busWrite (a : Offset) (write : State → State) (s : State) : State :=
  match busCheck s.nch 2#2 a true with
  | some e => busError e a true s
  | none => answer .ok none (write s)

/-- A word-sized WR at the offset of a read-only register: it has no write rule (R306). -/
def busWriteReadOnly (a : Offset) (s : State) : State := busWrite a (fun s => s) s

/-- RD of register `rel` of channel `c`, which reads as `value` of the channel (R220, 45_bus_channel.md). -/
def readChannel (c : ChanIx) (rel : BitVec 7) (value : Channel → Word) (s : State) : State :=
  busRead (chanOffset c rel) (fun s => value (chanAt s c)) s

/-- RD of configuration register `rel` of channel `c`. -/
def readConfig (c : ChanIx) (rel : BitVec 7) (value : ChanConfig → Word) (s : State) : State :=
  readChannel c rel (fun ch => value ch.cfg) s

/-- WR of configuration register `rel` of channel `c`, which changes only that channel's configuration (R250). -/
def writeConfig (c : ChanIx) (rel : BitVec 7) (f : ChanConfig → ChanConfig) (s : State) : State :=
  busWrite (chanOffset c rel) (fun s => updateChan c (fun ch => { ch with cfg := f ch.cfg }) s) s

/-! ### Start and reset values of a channel (R49, R65) -/

/-- The configuration of a channel after reset (R49): the smallest legal values. -/
def configReset : ChanConfig :=
  { debounceUs := 0#32, windowMs := 1#32, timeoutMs := 0#32, ppr := 1#8, periodMs := 1#31, rate := 0#24,
    alpha := 0#17, offBelow := 0#16, onAbove := 0#16, minOnMs := 0#32, minOffMs := 0#32, kickDuty := 0#16,
    kickMs := 0#31, holdMs := 0#32, safeDuty := 0#16, actEps := 0#16,
    curve0 := ⟨0#16, 0#16⟩, curve1 := ⟨0#16, 0#16⟩, curve2 := ⟨0#16, 0#16⟩, curve3 := ⟨0#16, 0#16⟩,
    curve4 := ⟨0#16, 0#16⟩ }

/-- The runtime state of a channel at a reset or start at NOW_MS = `nm` and NOW_US = `nu`, its configuration kept
(R65, R226). -/
def startChannel (nm nu : Word) (ch : Channel) : Channel :=
  { cfg := ch.cfg
    pulse := { count := 0#32, lastEdgeUs := nu, lastPulseMs := nm }
    est := { base := 0#32, rpm := 0xFFFFFFFF#32, delta := 0#32, winEnd := nm }
    ctl :=
      { lastTick := nm, raw := 0#16, filt := 0#16, outq := 0#16, out := 0#7, active := false, latch := .off,
        kick := false, inv := false, failsafe := false, tTrans := nm, kickEnd := nm, invSince := nm } }

/-- Start: every channel's runtime state is set to its start values at the current NOW_MS and NOW_US (R226). -/
def startAll (s : State) : State := { s with chans := s.chans.map (startChannel s.nowMs s.nowUs) }

/-- Stop: no register other than CTRL changes (R225). -/
def stopAll (s : State) : State := s

/-- The write rule of CTRL: EN takes bit 0; a rise is a start, a fall a stop, anything else is neither (R224). -/
def writeCtrl (wdata : Word) (s : State) : State :=
  let new := wdata.getLsbD 0
  let s' := { s with en := new }
  if !s.en && new then startAll s'
  else if s.en && !new then stopAll s'
  else s'

/-- The write rule of ERR: the whole register becomes 0 (R228). -/
def clearErr (s : State) : State := { s with err := { code := none, offset := 0#12, wr := false, ovf := false } }

/-- A channel after RESET (R205): configuration and runtime state, whatever they were. -/
def resetChannel (ch : Channel) : Channel := startChannel 0#32 0#32 { ch with cfg := configReset }

end Sys2Proof.Machine
end

