-- ==== Sys2Proof/Machine/BusConfig.lean ====
section
/-! DEFINITION. RD and WR of the nineteen configuration registers of a channel (45_bus_channel.md R251 to R280). Each runs
the access envelope of R220 at its own offset, which raises UNMAPPED for a channel that does not exist; a write stores the
legalised fields (10_state.md R32) and triggers nothing (R250). -/

namespace Sys2Proof.Machine

/-- RD CHc.DEBOUNCE_US, rel 0x00 (R251). -/
def execRdChDebounceUs (c : ChanIx) (s : State) : Host.Outcome State Fault Refusal :=
  .next (readConfig c 0x00#7 (fun k => k.debounceUs) s)

/-- WR CHc.DEBOUNCE_US, rel 0x00 (R252): all 32 bits. -/
def execWrChDebounceUs (c : ChanIx) (wdata : Word) (s : State) : Host.Outcome State Fault Refusal :=
  .next (writeConfig c 0x00#7 (fun k => { k with debounceUs := wdata }) s)

/-- RD CHc.WINDOW_MS, rel 0x04 (R253). -/
def execRdChWindowMs (c : ChanIx) (s : State) : Host.Outcome State Fault Refusal :=
  .next (readConfig c 0x04#7 (fun k => k.windowMs) s)

/-- WR CHc.WINDOW_MS, rel 0x04 (R254): 0 stores 1. -/
def execWrChWindowMs (c : ChanIx) (wdata : Word) (s : State) : Host.Outcome State Fault Refusal :=
  .next (writeConfig c 0x04#7 (fun k => { k with windowMs := min1 wdata }) s)

/-- RD CHc.TIMEOUT_MS, rel 0x08 (R255). -/
def execRdChTimeoutMs (c : ChanIx) (s : State) : Host.Outcome State Fault Refusal :=
  .next (readConfig c 0x08#7 (fun k => k.timeoutMs) s)

/-- WR CHc.TIMEOUT_MS, rel 0x08 (R256): all 32 bits. -/
def execWrChTimeoutMs (c : ChanIx) (wdata : Word) (s : State) : Host.Outcome State Fault Refusal :=
  .next (writeConfig c 0x08#7 (fun k => { k with timeoutMs := wdata }) s)

/-- RD CHc.PPR, rel 0x0C (R257). -/
def execRdChPpr (c : ChanIx) (s : State) : Host.Outcome State Fault Refusal :=
  .next (readConfig c 0x0C#7 (fun k => k.ppr.setWidth 32) s)

/-- WR CHc.PPR, rel 0x0C (R258): bits [7:0], 0 stores 1. -/
def execWrChPpr (c : ChanIx) (wdata : Word) (s : State) : Host.Outcome State Fault Refusal :=
  .next (writeConfig c 0x0C#7 (fun k => { k with ppr := min1 (wdata.extractLsb' 0 8) }) s)

/-- RD CHc.PERIOD_MS, rel 0x10 (R259). -/
def execRdChPeriodMs (c : ChanIx) (s : State) : Host.Outcome State Fault Refusal :=
  .next (readConfig c 0x10#7 (fun k => k.periodMs.setWidth 32) s)

/-- WR CHc.PERIOD_MS, rel 0x10 (R260): bits [30:0], 0 stores 1. -/
def execWrChPeriodMs (c : ChanIx) (wdata : Word) (s : State) : Host.Outcome State Fault Refusal :=
  .next (writeConfig c 0x10#7 (fun k => { k with periodMs := min1 (wdata.extractLsb' 0 31) }) s)

/-- RD CHc.RATE, rel 0x14 (R261). -/
def execRdChRate (c : ChanIx) (s : State) : Host.Outcome State Fault Refusal :=
  .next (readConfig c 0x14#7 (fun k => k.rate.setWidth 32) s)

/-- WR CHc.RATE, rel 0x14 (R262): bits [23:0]. -/
def execWrChRate (c : ChanIx) (wdata : Word) (s : State) : Host.Outcome State Fault Refusal :=
  .next (writeConfig c 0x14#7 (fun k => { k with rate := wdata.extractLsb' 0 24 }) s)

/-- RD CHc.ALPHA, rel 0x18 (R263). -/
def execRdChAlpha (c : ChanIx) (s : State) : Host.Outcome State Fault Refusal :=
  .next (readConfig c 0x18#7 (fun k => k.alpha.setWidth 32) s)

/-- WR CHc.ALPHA, rel 0x18 (R264): bits [16:0], capped at 65536. -/
def execWrChAlpha (c : ChanIx) (wdata : Word) (s : State) : Host.Outcome State Fault Refusal :=
  .next (writeConfig c 0x18#7 (fun k => { k with alpha := cap (wdata.extractLsb' 0 17) Config.alphaOne }) s)

/-- RD CHc.THRESH, rel 0x1C (R265). -/
def execRdChThresh (c : ChanIx) (s : State) : Host.Outcome State Fault Refusal :=
  .next (readConfig c 0x1C#7 (fun k => threshWord k) s)

/-- WR CHc.THRESH, rel 0x1C (R266): OFF_BELOW low, ON_ABOVE high, each capped at 25600. -/
def execWrChThresh (c : ChanIx) (wdata : Word) (s : State) : Host.Outcome State Fault Refusal :=
  .next (writeConfig c 0x1C#7 (fun k => { k with offBelow := lowDuty wdata, onAbove := highDuty wdata }) s)

/-- RD CHc.MIN_ON_MS, rel 0x20 (R267). -/
def execRdChMinOnMs (c : ChanIx) (s : State) : Host.Outcome State Fault Refusal :=
  .next (readConfig c 0x20#7 (fun k => k.minOnMs) s)

/-- WR CHc.MIN_ON_MS, rel 0x20 (R268): all 32 bits. -/
def execWrChMinOnMs (c : ChanIx) (wdata : Word) (s : State) : Host.Outcome State Fault Refusal :=
  .next (writeConfig c 0x20#7 (fun k => { k with minOnMs := wdata }) s)

/-- RD CHc.MIN_OFF_MS, rel 0x24 (R269). -/
def execRdChMinOffMs (c : ChanIx) (s : State) : Host.Outcome State Fault Refusal :=
  .next (readConfig c 0x24#7 (fun k => k.minOffMs) s)

/-- WR CHc.MIN_OFF_MS, rel 0x24 (R270): all 32 bits. -/
def execWrChMinOffMs (c : ChanIx) (wdata : Word) (s : State) : Host.Outcome State Fault Refusal :=
  .next (writeConfig c 0x24#7 (fun k => { k with minOffMs := wdata }) s)

/-- RD CHc.KICK_DUTY, rel 0x28 (R271). -/
def execRdChKickDuty (c : ChanIx) (s : State) : Host.Outcome State Fault Refusal :=
  .next (readConfig c 0x28#7 (fun k => k.kickDuty.setWidth 32) s)

/-- WR CHc.KICK_DUTY, rel 0x28 (R272): bits [15:0], capped at 25600. -/
def execWrChKickDuty (c : ChanIx) (wdata : Word) (s : State) : Host.Outcome State Fault Refusal :=
  .next (writeConfig c 0x28#7 (fun k => { k with kickDuty := lowDuty wdata }) s)

/-- RD CHc.KICK_MS, rel 0x2C (R273). -/
def execRdChKickMs (c : ChanIx) (s : State) : Host.Outcome State Fault Refusal :=
  .next (readConfig c 0x2C#7 (fun k => k.kickMs.setWidth 32) s)

/-- WR CHc.KICK_MS, rel 0x2C (R274): bits [30:0]. -/
def execWrChKickMs (c : ChanIx) (wdata : Word) (s : State) : Host.Outcome State Fault Refusal :=
  .next (writeConfig c 0x2C#7 (fun k => { k with kickMs := wdata.extractLsb' 0 31 }) s)

/-- RD CHc.HOLD_MS, rel 0x30 (R275). -/
def execRdChHoldMs (c : ChanIx) (s : State) : Host.Outcome State Fault Refusal :=
  .next (readConfig c 0x30#7 (fun k => k.holdMs) s)

/-- WR CHc.HOLD_MS, rel 0x30 (R276): all 32 bits. -/
def execWrChHoldMs (c : ChanIx) (wdata : Word) (s : State) : Host.Outcome State Fault Refusal :=
  .next (writeConfig c 0x30#7 (fun k => { k with holdMs := wdata }) s)

/-- RD CHc.SAFE, rel 0x34 (R277). -/
def execRdChSafe (c : ChanIx) (s : State) : Host.Outcome State Fault Refusal :=
  .next (readConfig c 0x34#7 (fun k => safeWord k) s)

/-- WR CHc.SAFE, rel 0x34 (R278): SAFE_DUTY low, ACT_EPS high, each capped at 25600. -/
def execWrChSafe (c : ChanIx) (wdata : Word) (s : State) : Host.Outcome State Fault Refusal :=
  .next (writeConfig c 0x34#7 (fun k => { k with safeDuty := lowDuty wdata, actEps := highDuty wdata }) s)

/-- RD CHc.CURVE0, rel 0x38 (R279). -/
def execRdChCurve0 (c : ChanIx) (s : State) : Host.Outcome State Fault Refusal :=
  .next (readConfig c 0x38#7 (fun k => pointWord k.curve0) s)

/-- WR CHc.CURVE0, rel 0x38 (R280): X raw in the low half, Y in the high half capped at 25600. -/
def execWrChCurve0 (c : ChanIx) (wdata : Word) (s : State) : Host.Outcome State Fault Refusal :=
  .next (writeConfig c 0x38#7 (fun k => { k with curve0 := pointOfWord wdata }) s)

/-- RD CHc.CURVE1, rel 0x3C (R279). -/
def execRdChCurve1 (c : ChanIx) (s : State) : Host.Outcome State Fault Refusal :=
  .next (readConfig c 0x3C#7 (fun k => pointWord k.curve1) s)

/-- WR CHc.CURVE1, rel 0x3C (R280): X raw in the low half, Y in the high half capped at 25600. -/
def execWrChCurve1 (c : ChanIx) (wdata : Word) (s : State) : Host.Outcome State Fault Refusal :=
  .next (writeConfig c 0x3C#7 (fun k => { k with curve1 := pointOfWord wdata }) s)

/-- RD CHc.CURVE2, rel 0x40 (R279). -/
def execRdChCurve2 (c : ChanIx) (s : State) : Host.Outcome State Fault Refusal :=
  .next (readConfig c 0x40#7 (fun k => pointWord k.curve2) s)

/-- WR CHc.CURVE2, rel 0x40 (R280): X raw in the low half, Y in the high half capped at 25600. -/
def execWrChCurve2 (c : ChanIx) (wdata : Word) (s : State) : Host.Outcome State Fault Refusal :=
  .next (writeConfig c 0x40#7 (fun k => { k with curve2 := pointOfWord wdata }) s)

/-- RD CHc.CURVE3, rel 0x44 (R279). -/
def execRdChCurve3 (c : ChanIx) (s : State) : Host.Outcome State Fault Refusal :=
  .next (readConfig c 0x44#7 (fun k => pointWord k.curve3) s)

/-- WR CHc.CURVE3, rel 0x44 (R280): X raw in the low half, Y in the high half capped at 25600. -/
def execWrChCurve3 (c : ChanIx) (wdata : Word) (s : State) : Host.Outcome State Fault Refusal :=
  .next (writeConfig c 0x44#7 (fun k => { k with curve3 := pointOfWord wdata }) s)

/-- RD CHc.CURVE4, rel 0x48 (R279). -/
def execRdChCurve4 (c : ChanIx) (s : State) : Host.Outcome State Fault Refusal :=
  .next (readConfig c 0x48#7 (fun k => pointWord k.curve4) s)

/-- WR CHc.CURVE4, rel 0x48 (R280): X raw in the low half, Y in the high half capped at 25600. -/
def execWrChCurve4 (c : ChanIx) (wdata : Word) (s : State) : Host.Outcome State Fault Refusal :=
  .next (writeConfig c 0x48#7 (fun k => { k with curve4 := pointOfWord wdata }) s)

end Sys2Proof.Machine
end

