-- ==== Sys2Proof/Machine/BusError.lean ====
section
/-! DEFINITION. The three error-class rows of the opcode table: accesses that no register row takes (60_exceptions.md R303 to
R305). Each raises its own error in either direction (log 13). -/

namespace Sys2Proof.Machine

/-- RD/WR of an offset no register occupies: UNMAPPED (R305). -/
def execUnmapped (acc : Access) (a : BitVec 10) (s : State) : Host.Outcome State Fault Refusal :=
  .next (busError .unmapped (unmappedOffset a) (isWrite acc) s)

/-- A word access with A[1:0] != 0: MISALIGN (R304). -/
def execMisaligned (acc : Access) (a : Offset) (s : State) : Host.Outcome State Fault Refusal :=
  .next (busError .misalign a (isWrite acc) s)

/-- An access with SZ != 0b10: SIZE, whatever the offset (R303). -/
def execBadSize (acc : Access) (_sz : BitVec 2) (a : Offset) (s : State) : Host.Outcome State Fault Refusal :=
  .next (busError .size a (isWrite acc) s)

end Sys2Proof.Machine
end

