-- ==== Sys2Proof/Machine/BusGlobal.lean ====
section
/-! DEFINITION. RD and WR of the eight global registers (44_bus_global.md R221 to R234). Each runs the access envelope of
R220 at its own offset. -/

namespace Sys2Proof.Machine

/-- RD ID (R221): the constant ID. -/
def execRdId (s : State) : Host.Outcome State Fault Refusal :=
  .next (busRead 0x000#12 (fun _ => Config.idValue) s)

/-- WR ID (R234): the register is read-only, so the envelope raises RO_WRITE. -/
def execWrId (_wdata : Word) (s : State) : Host.Outcome State Fault Refusal :=
  .next (busWriteReadOnly 0x000#12 s)

/-- RD CFG (R222): the channel count, zero-extended. -/
def execRdCfg (s : State) : Host.Outcome State Fault Refusal :=
  .next (busRead 0x004#12 (fun s => cfgWord s) s)

/-- WR CFG (R234): the register is read-only, so the envelope raises RO_WRITE. -/
def execWrCfg (_wdata : Word) (s : State) : Host.Outcome State Fault Refusal :=
  .next (busWriteReadOnly 0x004#12 s)

/-- RD CTRL (R223): EN in bit 0. -/
def execRdCtrl (s : State) : Host.Outcome State Fault Refusal :=
  .next (busRead 0x008#12 (fun s => ctrlWord s) s)

/-- WR CTRL (R224): EN takes bit 0; a rise of EN is a start. -/
def execWrCtrl (wdata : Word) (s : State) : Host.Outcome State Fault Refusal :=
  .next (busWrite 0x008#12 (fun s => writeCtrl wdata s) s)

/-- RD ERR (R227): the packed ERR fields; the read does not clear them. -/
def execRdErr (s : State) : Host.Outcome State Fault Refusal :=
  .next (busRead 0x00C#12 (fun s => errWord s.err) s)

/-- WR ERR (R228): any write clears ERR, whatever the operand. -/
def execWrErr (_wdata : Word) (s : State) : Host.Outcome State Fault Refusal :=
  .next (busWrite 0x00C#12 (fun s => clearErr s) s)

/-- RD NOW_MS (R229): the millisecond counter. -/
def execRdNowMs (s : State) : Host.Outcome State Fault Refusal :=
  .next (busRead 0x010#12 (fun s => s.nowMs) s)

/-- WR NOW_MS (R234): the register is read-only, so the envelope raises RO_WRITE. -/
def execWrNowMs (_wdata : Word) (s : State) : Host.Outcome State Fault Refusal :=
  .next (busWriteReadOnly 0x010#12 s)

/-- RD NOW_US (R230): the microsecond counter. -/
def execRdNowUs (s : State) : Host.Outcome State Fault Refusal :=
  .next (busRead 0x014#12 (fun s => s.nowUs) s)

/-- WR NOW_US (R234): the register is read-only, so the envelope raises RO_WRITE. -/
def execWrNowUs (_wdata : Word) (s : State) : Host.Outcome State Fault Refusal :=
  .next (busWriteReadOnly 0x014#12 s)

/-- RD TEMP (R231): VALID and the 16 raw bits of T. -/
def execRdTemp (s : State) : Host.Outcome State Fault Refusal :=
  .next (busRead 0x018#12 (fun s => tempWord s.temp) s)

/-- WR TEMP (R232): T and VALID change in one step. -/
def execWrTemp (wdata : Word) (s : State) : Host.Outcome State Fault Refusal :=
  .next (busWrite 0x018#12 (fun s => { s with temp := tempOfWord wdata }) s)

/-- RD PRESC (R233): the prescaler. -/
def execRdPresc (s : State) : Host.Outcome State Fault Refusal :=
  .next (busRead 0x01C#12 (fun s => prescWord s) s)

/-- WR PRESC (R234): the register is read-only, so the envelope raises RO_WRITE. -/
def execWrPresc (_wdata : Word) (s : State) : Host.Outcome State Fault Refusal :=
  .next (busWriteReadOnly 0x01C#12 s)

end Sys2Proof.Machine
end

