-- ==== Sys2Proof/Machine/BusStatus.lean ====
section
/-! DEFINITION. RD and WR of the thirteen status registers of a channel (45_bus_channel.md R400 to R412). A read returns the
register at the instant of the step and changes nothing else (20_memory.md R75, R76); a write raises RO_WRITE (60_exceptions.md
R306), or UNMAPPED for a channel that does not exist. -/

namespace Sys2Proof.Machine

/-- RD CHc.LAST_TICK, rel 0x4C (R400). -/
def execRdChLastTick (c : ChanIx) (s : State) : Host.Outcome State Fault Refusal :=
  .next (readChannel c 0x4C#7 (fun ch => ch.ctl.lastTick) s)

/-- WR CHc.LAST_TICK, rel 0x4C (R306): read-only. -/
def execWrChLastTick (c : ChanIx) (_wdata : Word) (s : State) : Host.Outcome State Fault Refusal :=
  .next (busWriteReadOnly (chanOffset c 0x4C#7) s)

/-- RD CHc.COUNT, rel 0x50 (R401). -/
def execRdChCount (c : ChanIx) (s : State) : Host.Outcome State Fault Refusal :=
  .next (readChannel c 0x50#7 (fun ch => ch.pulse.count) s)

/-- WR CHc.COUNT, rel 0x50 (R306): read-only. -/
def execWrChCount (c : ChanIx) (_wdata : Word) (s : State) : Host.Outcome State Fault Refusal :=
  .next (busWriteReadOnly (chanOffset c 0x50#7) s)

/-- RD CHc.BASE, rel 0x54 (R402). -/
def execRdChBase (c : ChanIx) (s : State) : Host.Outcome State Fault Refusal :=
  .next (readChannel c 0x54#7 (fun ch => ch.est.base) s)

/-- WR CHc.BASE, rel 0x54 (R306): read-only. -/
def execWrChBase (c : ChanIx) (_wdata : Word) (s : State) : Host.Outcome State Fault Refusal :=
  .next (busWriteReadOnly (chanOffset c 0x54#7) s)

/-- RD CHc.RPM, rel 0x58 (R403). -/
def execRdChRpm (c : ChanIx) (s : State) : Host.Outcome State Fault Refusal :=
  .next (readChannel c 0x58#7 (fun ch => ch.est.rpm) s)

/-- WR CHc.RPM, rel 0x58 (R306): read-only. -/
def execWrChRpm (c : ChanIx) (_wdata : Word) (s : State) : Host.Outcome State Fault Refusal :=
  .next (busWriteReadOnly (chanOffset c 0x58#7) s)

/-- RD CHc.DELTA, rel 0x5C (R404). -/
def execRdChDelta (c : ChanIx) (s : State) : Host.Outcome State Fault Refusal :=
  .next (readChannel c 0x5C#7 (fun ch => ch.est.delta) s)

/-- WR CHc.DELTA, rel 0x5C (R306): read-only. -/
def execWrChDelta (c : ChanIx) (_wdata : Word) (s : State) : Host.Outcome State Fault Refusal :=
  .next (busWriteReadOnly (chanOffset c 0x5C#7) s)

/-- RD CHc.WIN_END, rel 0x60 (R405). -/
def execRdChWinEnd (c : ChanIx) (s : State) : Host.Outcome State Fault Refusal :=
  .next (readChannel c 0x60#7 (fun ch => ch.est.winEnd) s)

/-- WR CHc.WIN_END, rel 0x60 (R306): read-only. -/
def execWrChWinEnd (c : ChanIx) (_wdata : Word) (s : State) : Host.Outcome State Fault Refusal :=
  .next (busWriteReadOnly (chanOffset c 0x60#7) s)

/-- RD CHc.LAST_PULSE_MS, rel 0x64 (R406). -/
def execRdChLastPulseMs (c : ChanIx) (s : State) : Host.Outcome State Fault Refusal :=
  .next (readChannel c 0x64#7 (fun ch => ch.pulse.lastPulseMs) s)

/-- WR CHc.LAST_PULSE_MS, rel 0x64 (R306): read-only. -/
def execWrChLastPulseMs (c : ChanIx) (_wdata : Word) (s : State) : Host.Outcome State Fault Refusal :=
  .next (busWriteReadOnly (chanOffset c 0x64#7) s)

/-- RD CHc.LAST_EDGE_US, rel 0x68 (R407). -/
def execRdChLastEdgeUs (c : ChanIx) (s : State) : Host.Outcome State Fault Refusal :=
  .next (readChannel c 0x68#7 (fun ch => ch.pulse.lastEdgeUs) s)

/-- WR CHc.LAST_EDGE_US, rel 0x68 (R306): read-only. -/
def execWrChLastEdgeUs (c : ChanIx) (_wdata : Word) (s : State) : Host.Outcome State Fault Refusal :=
  .next (busWriteReadOnly (chanOffset c 0x68#7) s)

/-- RD CHc.CMD, rel 0x6C (R408). -/
def execRdChCmd (c : ChanIx) (s : State) : Host.Outcome State Fault Refusal :=
  .next (readChannel c 0x6C#7 (fun ch => cmdWord ch.ctl) s)

/-- WR CHc.CMD, rel 0x6C (R306): read-only. -/
def execWrChCmd (c : ChanIx) (_wdata : Word) (s : State) : Host.Outcome State Fault Refusal :=
  .next (busWriteReadOnly (chanOffset c 0x6C#7) s)

/-- RD CHc.OUT, rel 0x70 (R409). -/
def execRdChOut (c : ChanIx) (s : State) : Host.Outcome State Fault Refusal :=
  .next (readChannel c 0x70#7 (fun ch => outWord ch.ctl) s)

/-- WR CHc.OUT, rel 0x70 (R306): read-only. -/
def execWrChOut (c : ChanIx) (_wdata : Word) (s : State) : Host.Outcome State Fault Refusal :=
  .next (busWriteReadOnly (chanOffset c 0x70#7) s)

/-- RD CHc.T_TRANS, rel 0x74 (R410). -/
def execRdChTTrans (c : ChanIx) (s : State) : Host.Outcome State Fault Refusal :=
  .next (readChannel c 0x74#7 (fun ch => ch.ctl.tTrans) s)

/-- WR CHc.T_TRANS, rel 0x74 (R306): read-only. -/
def execWrChTTrans (c : ChanIx) (_wdata : Word) (s : State) : Host.Outcome State Fault Refusal :=
  .next (busWriteReadOnly (chanOffset c 0x74#7) s)

/-- RD CHc.KICK_END, rel 0x78 (R411). -/
def execRdChKickEnd (c : ChanIx) (s : State) : Host.Outcome State Fault Refusal :=
  .next (readChannel c 0x78#7 (fun ch => ch.ctl.kickEnd) s)

/-- WR CHc.KICK_END, rel 0x78 (R306): read-only. -/
def execWrChKickEnd (c : ChanIx) (_wdata : Word) (s : State) : Host.Outcome State Fault Refusal :=
  .next (busWriteReadOnly (chanOffset c 0x78#7) s)

/-- RD CHc.INV_SINCE, rel 0x7C (R412). -/
def execRdChInvSince (c : ChanIx) (s : State) : Host.Outcome State Fault Refusal :=
  .next (readChannel c 0x7C#7 (fun ch => ch.ctl.invSince) s)

/-- WR CHc.INV_SINCE, rel 0x7C (R306): read-only. -/
def execWrChInvSince (c : ChanIx) (_wdata : Word) (s : State) : Host.Outcome State Fault Refusal :=
  .next (busWriteReadOnly (chanOffset c 0x7C#7) s)

end Sys2Proof.Machine
end

