-- ==== Sys2Proof/Machine/Pulse.lean ====
section
/-! DEFINITION. The pulse counter (40_pulse_counter.md): the debounce test and the EDGE operation. -/

namespace Sys2Proof.Machine

/-- The debounce test: the time since the last accepted edge exceeds DEBOUNCE_US, strictly (R120, R122). -/
def edgeAccepted (nowUs : Word) (ch : Channel) : Bool :=
  decide (ch.cfg.debounceUs.toNat < (dist nowUs ch.pulse.lastEdgeUs).toNat)

/-- The accumulator's part of EDGE: an accepted edge is counted and stamped in both timebases, a rejected one changes
nothing (R120, R121, R124). -/
def recordEdge (nowUs nowMs : Word) (ch : Channel) : Channel :=
  if edgeAccepted nowUs ch then
    { ch with pulse := { count := ch.pulse.count + 1#32, lastEdgeUs := nowUs, lastPulseMs := nowMs } }
  else ch

/-- EDGE (R120): ignored while the block is stopped (R123). A channel c >= NCH is no tach input (R95; log 6). -/
def execEdge (c : ChanIx) (s : State) : Host.Outcome State Fault Refusal :=
  if c.toNat < s.nch then .next (if s.en then updateChan c (recordEdge s.nowUs s.nowMs) s else s)
  else .refused .noSuchTachInput

end Sys2Proof.Machine
end

