-- ==== Sys2Proof/Machine/Controller.lean ====
section
/-! DEFINITION. The fan duty controller (42_fan_controller.md), a sub-step of TICK_US. It reads the configuration, TEMP and
its own state, never the tach side (00_scope.md R8, R171): its functions take nothing else. -/

namespace Sys2Proof.Machine

/-- The value on the segment from `p` to `q` at temperature `t`, linear and rounded by rdiv (R161). -/
def segment (p q : CurvePoint) (t : Int) : Int :=
  (p.y.toNat : Int) + rdiv ((t - p.x.toInt) * ((q.y.toNat : Int) - (p.y.toNat : Int))) (q.x.toInt - p.x.toInt)

/-- curve(t): clamped below X_0 and above X_4, and else the first segment whose right end is above t (R161). The fourth
test always succeeds when it is reached (log 14). -/
def curve (k : ChanConfig) (t : Int) : Int :=
  if t ≤ k.curve0.x.toInt then k.curve0.y.toNat
  else if k.curve4.x.toInt ≤ t then k.curve4.y.toNat
  else if t < k.curve1.x.toInt then segment k.curve0 k.curve1 t
  else if t < k.curve2.x.toInt then segment k.curve1 k.curve2 t
  else if t < k.curve3.x.toInt then segment k.curve2 k.curve3 t
  else segment k.curve3 k.curve4 t

/-- An invalid reading marks the start of invalidity at the first tick that sees it (R162). -/
def markInvalid (now : Word) (u : CtlState) : CtlState :=
  if u.inv then u else { u with inv := true, invSince := now }

/-- TempStep (R162): RAW from the curve while TEMP is valid; else RAW is held, and SAFE_DUTY once the hold has passed. -/
def tempStep (k : ChanConfig) (temp : Temp) (now : Word) (u : CtlState) : CtlState :=
  if temp.valid then
    { u with raw := BitVec.ofInt 16 (curve k temp.t.toInt), inv := false, failsafe := false }
  else
    let u' := markInvalid now u
    if holdExpired k now u'.invSince then { u' with raw := k.safeDuty, failsafe := true } else u'

/-- The largest move of the filtered output in a tick of `dt` ms (R163). -/
def maxStep (k : ChanConfig) (dt : Word) : Nat := k.rate.toNat * dt.toNat / 1000

/-- `lim`: FILT moved toward RAW by at most the rate limit (R163). -/
def rateLimited (k : ChanConfig) (dt : Word) (u : CtlState) : Int :=
  (u.filt.toNat : Int) + clamp ((u.raw.toNat : Int) - u.filt.toNat) (-(maxStep k dt : Int)) (maxStep k dt)

/-- The smoothing step for the distance `d`: its magnitude is |d|*ALPHA/65536 rounded up (R164). -/
def emaStep (k : ChanConfig) (d : Int) : Int :=
  if d = 0 then 0 else d.sign * (((d.natAbs * k.alpha.toNat + 65535) / 65536 : Nat) : Int)

/-- FilterStep (R163, R164): FILT moves toward the rate-limited value, whatever LATCH is. -/
def filterStep (k : ChanConfig) (dt : Word) (u : CtlState) : CtlState :=
  { u with filt := BitVec.ofInt 16 ((u.filt.toNat : Int) + emaStep k (rateLimited k dt u - u.filt.toNat)) }

/-- ArmKick (R166): every OFF to ON transition arms a kick that ends KICK_MS later. -/
def armKick (k : ChanConfig) (now : Word) (u : CtlState) : CtlState :=
  { u with kick := true, kickEnd := now + k.kickMs.setWidth 32 }

/-- LatchStep (R165): at most one transition a tick, stamped; OFF to ON arms a kick, ON to OFF clears it. -/
def latchStep (k : ChanConfig) (now : Word) (u : CtlState) : CtlState :=
  match u.latch with
  | .off => if turnsOn k now u then armKick k now { u with latch := .on, tTrans := now } else u
  | .on => if turnsOff k now u then { u with latch := .off, tTrans := now, kick := false } else u

/-- The larger of two duty values. -/
def maxDuty (a b : BitVec 16) : BitVec 16 := if a.toNat ≤ b.toNat then b else a

/-- Publish the commanded duty `q`, clamped to 100 %: OUTQ, the integer percent OUT with halves up, and ACTIVE
(R167, R168). -/
def publish (k : ChanConfig) (q : BitVec 16) (u : CtlState) : CtlState :=
  let outq := cap q Config.dutyMax
  { u with outq := outq, out := BitVec.ofNat 7 ((outq.toNat + 128) / 256), active := activeOf k outq }

/-- OutputStep (R167, R168): 0 in OFF; in ON the kick's duty while it is in force, else FILT floored at OFF_BELOW, and a
kick that is over is cleared. -/
def outputStep (k : ChanConfig) (now : Word) (u : CtlState) : CtlState :=
  match u.latch with
  | .off => publish k 0#16 u
  | .on =>
    if kickInForce now u then publish k k.kickDuty u
    else publish k (maxDuty u.filt k.offBelow) { u with kick := false }

/-- CtrlStep (R160): the four sub-steps in order, each on what the earlier ones wrote (R169). -/
def ctrlStep (k : ChanConfig) (temp : Temp) (now dt : Word) (u : CtlState) : CtlState :=
  outputStep k now (latchStep k now (filterStep k dt (tempStep k temp now u)))

end Sys2Proof.Machine
end

