-- ==== Sys2Proof/Machine/Estimator.lean ====
section
/-! DEFINITION. The windowed RPM estimator (41_tach_estimator.md), a sub-step of TICK_US. -/

namespace Sys2Proof.Machine

/-- rpm_of(d, W, P): d*60000/(W*P) to the nearest integer, halves up, saturated at 2^31 - 1 (R142). -/
def rpmOf (d w p : Nat) : Nat := min ((2 * d * 60000 + w * p) / (2 * w * p)) Config.rpmMax

/-- The time since the last window's end has reached WINDOW_MS (R140, R203). -/
def windowDue (now : Word) (ch : Channel) : Bool :=
  decide (ch.cfg.windowMs.toNat ≤ (dist now ch.est.winEnd).toNat)

/-- The pulse timeout has passed, strictly (R143). -/
def pulseTimedOut (now : Word) (ch : Channel) : Bool :=
  decide (ch.cfg.timeoutMs.toNat < (dist now ch.pulse.lastPulseMs).toNat)

/-- TakeDelta: the count's growth since the last window, with the baseline moved to the count (R141). -/
def takeDelta (ch : Channel) : Word × Channel :=
  (ch.pulse.count - ch.est.base, { ch with est := { ch.est with base := ch.pulse.count } })

/-- The RPM a window leaves: the conversion of a nonzero delta, 0 after the timeout, else the RPM before (R140, R143). -/
def windowRpm (now delta : Word) (ch : Channel) : Word :=
  if delta ≠ 0#32 then BitVec.ofNat 32 (rpmOf delta.toNat ch.cfg.windowMs.toNat ch.cfg.ppr.toNat)
  else if pulseTimedOut now ch then 0#32
  else ch.est.rpm

/-- WindowStep (R140): nothing before the window's end; at it, take the delta and recompute RPM. -/
def windowStep (now : Word) (ch : Channel) : Channel :=
  if windowDue now ch then
    let (delta, ch') := takeDelta ch
    { ch' with est := { ch'.est with delta := delta, winEnd := now, rpm := windowRpm now delta ch' } }
  else ch

end Sys2Proof.Machine
end

