-- ==== Sys2Proof/Machine/Timebase.lean ====
section
/-! DEFINITION. The timebase and reset (43_timebase.md): TICK_US with its millisecond event, and RESET. -/

namespace Sys2Proof.Machine

/-- The time since the channel's last controller tick has reached PERIOD_MS (R202). -/
def tickDue (now : Word) (ch : Channel) : Bool :=
  decide (ch.cfg.periodMs.toNat ≤ (dist now ch.ctl.lastTick).toNat)

/-- TickCheck (R202): a tick that is due runs the controller with the true elapsed time. -/
def tickCheck (now : Word) (temp : Temp) (ch : Channel) : Channel :=
  if tickDue now ch then
    { ch with ctl := ctrlStep ch.cfg temp now (dist now ch.ctl.lastTick) { ch.ctl with lastTick := now } }
  else ch

/-- A channel's part of a millisecond event: WindowStep, then TickCheck (R201). -/
def channelMs (now : Word) (temp : Temp) (ch : Channel) : Channel := tickCheck now temp (windowStep now ch)

/-- MsEvent (R201): nothing while stopped; else each channel's part. The channels share nothing that the event writes, so
all are done at once (log 5). -/
def msEvent (s : State) : State :=
  if s.en then { s with chans := s.chans.map (channelMs s.nowMs s.temp) } else s

/-- TICK_US (R200): one microsecond, and the millisecond event when the prescaler is full. -/
def execTickUs (s : State) : Host.Outcome State Fault Refusal :=
  let s' := { s with nowUs := s.nowUs + 1#32 }
  if s.presc.toNat = Config.prescLast then .next (msEvent { s' with presc := 0#10, nowMs := s.nowMs + 1#32 })
  else .next { s' with presc := s.presc + 1#10 }

/-- RESET (R205): every register to its reset value, in every channel. The input list and the port are not registers
(log 1, log 4). -/
def execReset (s : State) : Host.Outcome State Fault Refusal :=
  .next
    { s with
      en := false, err := { code := none, offset := 0#12, wr := false, ovf := false }, nowMs := 0#32, nowUs := 0#32,
      temp := { t := 0#16, valid := false }, presc := 0#10, chans := s.chans.map resetChannel }

end Sys2Proof.Machine
end

