-- ==== Sys2Proof/Machine/Dispatch.lean ====
section
/-! DEFINITION. The meaning of each operation: one arm for each constructor of `Instr`. -/

namespace Sys2Proof.Machine

/-- The outcome of one operation on a state (R71: one indivisible step). -/
def exec (i : Instr) (s : State) : Host.Outcome State Fault Refusal :=
  match i with
  | .rdId => Sys2Proof.Machine.execRdId s
  | .wrId wdata => Sys2Proof.Machine.execWrId wdata s
  | .rdCfg => Sys2Proof.Machine.execRdCfg s
  | .wrCfg wdata => Sys2Proof.Machine.execWrCfg wdata s
  | .rdCtrl => Sys2Proof.Machine.execRdCtrl s
  | .wrCtrl wdata => Sys2Proof.Machine.execWrCtrl wdata s
  | .rdErr => Sys2Proof.Machine.execRdErr s
  | .wrErr wdata => Sys2Proof.Machine.execWrErr wdata s
  | .rdNowMs => Sys2Proof.Machine.execRdNowMs s
  | .wrNowMs wdata => Sys2Proof.Machine.execWrNowMs wdata s
  | .rdNowUs => Sys2Proof.Machine.execRdNowUs s
  | .wrNowUs wdata => Sys2Proof.Machine.execWrNowUs wdata s
  | .rdTemp => Sys2Proof.Machine.execRdTemp s
  | .wrTemp wdata => Sys2Proof.Machine.execWrTemp wdata s
  | .rdPresc => Sys2Proof.Machine.execRdPresc s
  | .wrPresc wdata => Sys2Proof.Machine.execWrPresc wdata s
  | .rdChDebounceUs c => Sys2Proof.Machine.execRdChDebounceUs c s
  | .wrChDebounceUs c wdata => Sys2Proof.Machine.execWrChDebounceUs c wdata s
  | .rdChWindowMs c => Sys2Proof.Machine.execRdChWindowMs c s
  | .wrChWindowMs c wdata => Sys2Proof.Machine.execWrChWindowMs c wdata s
  | .rdChTimeoutMs c => Sys2Proof.Machine.execRdChTimeoutMs c s
  | .wrChTimeoutMs c wdata => Sys2Proof.Machine.execWrChTimeoutMs c wdata s
  | .rdChPpr c => Sys2Proof.Machine.execRdChPpr c s
  | .wrChPpr c wdata => Sys2Proof.Machine.execWrChPpr c wdata s
  | .rdChPeriodMs c => Sys2Proof.Machine.execRdChPeriodMs c s
  | .wrChPeriodMs c wdata => Sys2Proof.Machine.execWrChPeriodMs c wdata s
  | .rdChRate c => Sys2Proof.Machine.execRdChRate c s
  | .wrChRate c wdata => Sys2Proof.Machine.execWrChRate c wdata s
  | .rdChAlpha c => Sys2Proof.Machine.execRdChAlpha c s
  | .wrChAlpha c wdata => Sys2Proof.Machine.execWrChAlpha c wdata s
  | .rdChThresh c => Sys2Proof.Machine.execRdChThresh c s
  | .wrChThresh c wdata => Sys2Proof.Machine.execWrChThresh c wdata s
  | .rdChMinOnMs c => Sys2Proof.Machine.execRdChMinOnMs c s
  | .wrChMinOnMs c wdata => Sys2Proof.Machine.execWrChMinOnMs c wdata s
  | .rdChMinOffMs c => Sys2Proof.Machine.execRdChMinOffMs c s
  | .wrChMinOffMs c wdata => Sys2Proof.Machine.execWrChMinOffMs c wdata s
  | .rdChKickDuty c => Sys2Proof.Machine.execRdChKickDuty c s
  | .wrChKickDuty c wdata => Sys2Proof.Machine.execWrChKickDuty c wdata s
  | .rdChKickMs c => Sys2Proof.Machine.execRdChKickMs c s
  | .wrChKickMs c wdata => Sys2Proof.Machine.execWrChKickMs c wdata s
  | .rdChHoldMs c => Sys2Proof.Machine.execRdChHoldMs c s
  | .wrChHoldMs c wdata => Sys2Proof.Machine.execWrChHoldMs c wdata s
  | .rdChSafe c => Sys2Proof.Machine.execRdChSafe c s
  | .wrChSafe c wdata => Sys2Proof.Machine.execWrChSafe c wdata s
  | .rdChCurve0 c => Sys2Proof.Machine.execRdChCurve0 c s
  | .wrChCurve0 c wdata => Sys2Proof.Machine.execWrChCurve0 c wdata s
  | .rdChCurve1 c => Sys2Proof.Machine.execRdChCurve1 c s
  | .wrChCurve1 c wdata => Sys2Proof.Machine.execWrChCurve1 c wdata s
  | .rdChCurve2 c => Sys2Proof.Machine.execRdChCurve2 c s
  | .wrChCurve2 c wdata => Sys2Proof.Machine.execWrChCurve2 c wdata s
  | .rdChCurve3 c => Sys2Proof.Machine.execRdChCurve3 c s
  | .wrChCurve3 c wdata => Sys2Proof.Machine.execWrChCurve3 c wdata s
  | .rdChCurve4 c => Sys2Proof.Machine.execRdChCurve4 c s
  | .wrChCurve4 c wdata => Sys2Proof.Machine.execWrChCurve4 c wdata s
  | .rdChLastTick c => Sys2Proof.Machine.execRdChLastTick c s
  | .wrChLastTick c wdata => Sys2Proof.Machine.execWrChLastTick c wdata s
  | .rdChCount c => Sys2Proof.Machine.execRdChCount c s
  | .wrChCount c wdata => Sys2Proof.Machine.execWrChCount c wdata s
  | .rdChBase c => Sys2Proof.Machine.execRdChBase c s
  | .wrChBase c wdata => Sys2Proof.Machine.execWrChBase c wdata s
  | .rdChRpm c => Sys2Proof.Machine.execRdChRpm c s
  | .wrChRpm c wdata => Sys2Proof.Machine.execWrChRpm c wdata s
  | .rdChDelta c => Sys2Proof.Machine.execRdChDelta c s
  | .wrChDelta c wdata => Sys2Proof.Machine.execWrChDelta c wdata s
  | .rdChWinEnd c => Sys2Proof.Machine.execRdChWinEnd c s
  | .wrChWinEnd c wdata => Sys2Proof.Machine.execWrChWinEnd c wdata s
  | .rdChLastPulseMs c => Sys2Proof.Machine.execRdChLastPulseMs c s
  | .wrChLastPulseMs c wdata => Sys2Proof.Machine.execWrChLastPulseMs c wdata s
  | .rdChLastEdgeUs c => Sys2Proof.Machine.execRdChLastEdgeUs c s
  | .wrChLastEdgeUs c wdata => Sys2Proof.Machine.execWrChLastEdgeUs c wdata s
  | .rdChCmd c => Sys2Proof.Machine.execRdChCmd c s
  | .wrChCmd c wdata => Sys2Proof.Machine.execWrChCmd c wdata s
  | .rdChOut c => Sys2Proof.Machine.execRdChOut c s
  | .wrChOut c wdata => Sys2Proof.Machine.execWrChOut c wdata s
  | .rdChTTrans c => Sys2Proof.Machine.execRdChTTrans c s
  | .wrChTTrans c wdata => Sys2Proof.Machine.execWrChTTrans c wdata s
  | .rdChKickEnd c => Sys2Proof.Machine.execRdChKickEnd c s
  | .wrChKickEnd c wdata => Sys2Proof.Machine.execWrChKickEnd c wdata s
  | .rdChInvSince c => Sys2Proof.Machine.execRdChInvSince c s
  | .wrChInvSince c wdata => Sys2Proof.Machine.execWrChInvSince c wdata s
  | .edge c => Sys2Proof.Machine.execEdge c s
  | .tickUs => Sys2Proof.Machine.execTickUs s
  | .reset => Sys2Proof.Machine.execReset s
  | .unmapped acc a => Sys2Proof.Machine.execUnmapped acc a s
  | .misaligned acc a => Sys2Proof.Machine.execMisaligned acc a s
  | .badSize acc sz a => Sys2Proof.Machine.execBadSize acc sz a s

end Sys2Proof.Machine
end

