-- ==== Sys2Proof/Machine/Step.lean ====
section
/-! DEFINITION. One step of the block: the next presented operation is decoded and run (20_memory.md R71). -/

namespace Sys2Proof.Machine

/-- One step: with no operation presented nothing happens (log 2); else the decoded operation runs, or the decoder's
refusal is the outcome (R95). -/
def step (s : State) : Host.Outcome State Fault Refusal :=
  match nextOperation s with
  | none => .next s
  | some (p, s') =>
    match decode s'.nch p with
    | .ok i => exec i s'
    | .error e => .refused (refusalOf e)

/-- `s` with a table row's bits presented as its next operation (log 1, log 7). -/
def State.withFetchWord (s : State) (nbits w : Nat) : State :=
  { s with pending := presentedOfBits nbits w :: s.pending }

end Sys2Proof.Machine
end

