-- ==== Sys2Proof/Machine/Assembler.lean ====
section
/-! DEFINITION. The assembler of 30_encoding.md R100 and its pseudo-instructions (R101), over syntax trees: a line of
assembly is a term, and only its spelling in characters (`render`) is text (log 12). -/

namespace Sys2Proof.Machine

/-- The global register names (R100). -/
inductive GlobalReg where
  | id | cfg | ctrl | err | nowMs | nowUs | temp | presc
  deriving DecidableEq, Repr

/-- The channel register names (R22, R100). -/
inductive ChannelReg where
  | debounceUs | windowMs | timeoutMs | ppr | periodMs | rate | alpha | thresh
  | minOnMs | minOffMs | kickDuty | kickMs | holdMs | safe | curve0 | curve1
  | curve2 | curve3 | curve4 | lastTick | count | base | rpm | delta
  | winEnd | lastPulseMs | lastEdgeUs | cmd | out | tTrans | kickEnd | invSince
  deriving DecidableEq, Repr

/-- REG: a global register name, CHn.NAME, or a raw offset (R100). -/
inductive Reg where
  | global (r : GlobalReg)
  | channel (c : ChanIx) (r : ChannelReg)
  | raw (a : Offset)
  deriving DecidableEq, Repr

/-- The size suffix: `.w` (the default), `.h`, `.b` or `.r` (R100). -/
inductive SizeSuffix where
  | w | h | b | r
  deriving DecidableEq, Repr

/-- VALUE: literals, the three functions, and the bitwise or of R101. The argument of `pct` and `degc` is the fraction
`num / den` (R100). -/
inductive Value where
  | lit (n : Nat)
  | pct (num : Nat) (den : Nat)
  | degc (num : Int) (den : Nat)
  | pair (hi lo : Value)
  | or (a b : Value)
  deriving DecidableEq, Repr

/-- A line of assembly: the operations of R100 and the pseudo-instructions of R101. -/
inductive AsmLine where
  | rd (sz : SizeSuffix) (r : Reg)
  | wr (sz : SizeSuffix) (r : Reg) (v : Value)
  | edge (n : Nat)
  | tickUs
  | reset
  | waitUs (n : Nat)
  | waitMs (n : Nat)
  | start
  | stop
  | clrerr
  | settemp (num : Int) (den : Nat)
  | clrtemp
  | setpt (n : ChanIx) (i : Fin 5) (t : Int) (tden : Nat) (p : Nat) (pden : Nat)
  | setthr (n : ChanIx) (off : Nat) (offden : Nat) (on : Nat) (onden : Nat)
  deriving DecidableEq, Repr

/-- The offset of a global register (R22). -/
def globalOffset : GlobalReg → Offset
  | .id => 0x000#12
  | .cfg => 0x004#12
  | .ctrl => 0x008#12
  | .err => 0x00C#12
  | .nowMs => 0x010#12
  | .nowUs => 0x014#12
  | .temp => 0x018#12
  | .presc => 0x01C#12

/-- The rel offset of a channel register (R22). -/
def relOffset : ChannelReg → BitVec 7
  | .debounceUs => 0x00#7
  | .windowMs => 0x04#7
  | .timeoutMs => 0x08#7
  | .ppr => 0x0C#7
  | .periodMs => 0x10#7
  | .rate => 0x14#7
  | .alpha => 0x18#7
  | .thresh => 0x1C#7
  | .minOnMs => 0x20#7
  | .minOffMs => 0x24#7
  | .kickDuty => 0x28#7
  | .kickMs => 0x2C#7
  | .holdMs => 0x30#7
  | .safe => 0x34#7
  | .curve0 => 0x38#7
  | .curve1 => 0x3C#7
  | .curve2 => 0x40#7
  | .curve3 => 0x44#7
  | .curve4 => 0x48#7
  | .lastTick => 0x4C#7
  | .count => 0x50#7
  | .base => 0x54#7
  | .rpm => 0x58#7
  | .delta => 0x5C#7
  | .winEnd => 0x60#7
  | .lastPulseMs => 0x64#7
  | .lastEdgeUs => 0x68#7
  | .cmd => 0x6C#7
  | .out => 0x70#7
  | .tTrans => 0x74#7
  | .kickEnd => 0x78#7
  | .invSince => 0x7C#7

/-- The offset that a REG names (R22, R99). -/
def regOffset : Reg → Offset
  | .global r => globalOffset r
  | .channel c r => chanOffset c (relOffset r)
  | .raw a => a

/-- SZ of a size suffix (R91, R100). -/
def sizeBits : SizeSuffix → BitVec 2
  | .w => 2#2
  | .h => 1#2
  | .b => 0#2
  | .r => 3#2

/-- The size suffix of SZ. -/
def suffixOf (sz : BitVec 2) : SizeSuffix :=
  if sz = 2#2 then .w else if sz = 1#2 then .h else if sz = 0#2 then .b else .r

/-- The value of a VALUE expression as WDATA: `pct(p)` = p*256 and `degc(t)` = u32(t*256)[15:0], each for an argument whose
product with 256 is an integer, `pair(hi, lo)` = (hi[15:0] << 16) | lo[15:0] (R100). A number of more than 32 bits has none
(log 12). -/
def valueOf : Value → Option Word
  | .lit n => if n < 2 ^ 32 then some (BitVec.ofNat 32 n) else none
  | .pct num den =>
    if den ≠ 0 ∧ num * 256 % den = 0 ∧ num * 256 / den < 2 ^ 32 then some (BitVec.ofNat 32 (num * 256 / den)) else none
  | .degc num den =>
    if den ≠ 0 ∧ num * 256 % (den : Int) = 0 then
      some (((BitVec.ofInt 32 (num * 256 / (den : Int))).extractLsb' 0 16).setWidth 32)
    else none
  | .pair hi lo =>
    match valueOf hi, valueOf lo with
    | some h, some l => some (h.extractLsb' 0 16 ++ l.extractLsb' 0 16)
    | _, _ => none
  | .or a b =>
    match valueOf a, valueOf b with
    | some x, some y => some (x ||| y)
    | _, _ => none

/-- One WR line, if its VALUE has a value. -/
def assembleWr (sz : SizeSuffix) (r : Reg) (v : Value) : Option (List Presented) :=
  match valueOf v with
  | some x => some [presentBus (.wr x) (sizeBits sz) (regOffset r)]
  | none => none

/-- The curve register of point `i`. -/
def curveReg (i : Fin 5) : ChannelReg :=
  if i.val = 0 then .curve0 else if i.val = 1 then .curve1 else if i.val = 2 then .curve2
  else if i.val = 3 then .curve3 else .curve4

/-- The operations a line stands for (R100), a pseudo-instruction by its expansion (R101). -/
def assemble : AsmLine → Option (List Presented)
  | .rd sz r => some [presentBus .rd (sizeBits sz) (regOffset r)]
  | .wr sz r v => assembleWr sz r v
  | .edge n => if n < 4 then some [encode (.edge (BitVec.ofNat 2 n))] else none
  | .tickUs => some [encode .tickUs]
  | .reset => some [encode .reset]
  | .waitUs n => some (List.replicate n (encode .tickUs))
  | .waitMs n => some (List.replicate (1000 * n) (encode .tickUs))
  | .start => assembleWr .w (.global .ctrl) (.lit 1)
  | .stop => assembleWr .w (.global .ctrl) (.lit 0)
  | .clrerr => assembleWr .w (.global .err) (.lit 0)
  | .settemp num den => assembleWr .w (.global .temp) (.or (.lit 0x10000) (.degc num den))
  | .clrtemp => assembleWr .w (.global .temp) (.lit 0)
  | .setpt n i t tden p pden => assembleWr .w (.channel n (curveReg i)) (.pair (.pct p pden) (.degc t tden))
  | .setthr n off offden on onden =>
    assembleWr .w (.channel n .thresh) (.pair (.pct on onden) (.pct off offden))

/-- The global register at index `ix` = A[4:2]. -/
def globalRegAt (ix : Nat) : GlobalReg :=
  match ix with
  | 0 => .id
  | 1 => .cfg
  | 2 => .ctrl
  | 3 => .err
  | 4 => .nowMs
  | 5 => .nowUs
  | 6 => .temp
  | _ => .presc

/-- The channel register with rel = 4 * `ix`. -/
def channelRegAt (ix : Nat) : ChannelReg :=
  match ix with
  | 0 => .debounceUs
  | 1 => .windowMs
  | 2 => .timeoutMs
  | 3 => .ppr
  | 4 => .periodMs
  | 5 => .rate
  | 6 => .alpha
  | 7 => .thresh
  | 8 => .minOnMs
  | 9 => .minOffMs
  | 10 => .kickDuty
  | 11 => .kickMs
  | 12 => .holdMs
  | 13 => .safe
  | 14 => .curve0
  | 15 => .curve1
  | 16 => .curve2
  | 17 => .curve3
  | 18 => .curve4
  | 19 => .lastTick
  | 20 => .count
  | 21 => .base
  | 22 => .rpm
  | 23 => .delta
  | 24 => .winEnd
  | 25 => .lastPulseMs
  | 26 => .lastEdgeUs
  | 27 => .cmd
  | 28 => .out
  | 29 => .tTrans
  | 30 => .kickEnd
  | _ => .invSince

/-- The REG of an offset: the register name when one exists, else the raw offset (R100). DESIGN CHOICE (log 12): a register of
an absent channel is written by its name too. -/
def regAt (a : Offset) : Reg :=
  if a.extractLsb' 0 2 ≠ 0#2 then .raw a
  else if a.extractLsb' 5 7 = 0#7 then .global (globalRegAt (a.extractLsb' 2 3).toNat)
  else if a.extractLsb' 9 3 = 1#3 then .channel (a.extractLsb' 7 2) (channelRegAt (a.extractLsb' 2 5).toNat)
  else .raw a

/-- The line that writes an operation back (R100), from its word: always with the register name when one exists. DESIGN CHOICE
(log 12): R100 says "in this form" and no more, and the printer writes a write's VALUE always as one literal, the whole of
WDATA, never as `pct`, `degc` or `pair`; a size suffix stands only where SZ is not the default. -/
def printLine (i : Instr) : AsmLine :=
  let p := encode i
  if opKind p.word = 0#2 then .rd (suffixOf (opSize p.word)) (regAt (opOffset p.word))
  else if opKind p.word = 1#2 then
    .wr (suffixOf (opSize p.word)) (regAt (opOffset p.word)) (.lit p.wdata.toNat)
  else if opKind p.word = 2#2 then .edge (p.word.extractLsb' 0 2).toNat
  else if p.word = 0xC001#16 then .reset
  else .tickUs

/-- The spelling of a global register name. -/
def globalName : GlobalReg → String
  | .id => "ID"
  | .cfg => "CFG"
  | .ctrl => "CTRL"
  | .err => "ERR"
  | .nowMs => "NOW_MS"
  | .nowUs => "NOW_US"
  | .temp => "TEMP"
  | .presc => "PRESC"

/-- The spelling of a channel register name. -/
def channelName : ChannelReg → String
  | .debounceUs => "DEBOUNCE_US"
  | .windowMs => "WINDOW_MS"
  | .timeoutMs => "TIMEOUT_MS"
  | .ppr => "PPR"
  | .periodMs => "PERIOD_MS"
  | .rate => "RATE"
  | .alpha => "ALPHA"
  | .thresh => "THRESH"
  | .minOnMs => "MIN_ON_MS"
  | .minOffMs => "MIN_OFF_MS"
  | .kickDuty => "KICK_DUTY"
  | .kickMs => "KICK_MS"
  | .holdMs => "HOLD_MS"
  | .safe => "SAFE"
  | .curve0 => "CURVE0"
  | .curve1 => "CURVE1"
  | .curve2 => "CURVE2"
  | .curve3 => "CURVE3"
  | .curve4 => "CURVE4"
  | .lastTick => "LAST_TICK"
  | .count => "COUNT"
  | .base => "BASE"
  | .rpm => "RPM"
  | .delta => "DELTA"
  | .winEnd => "WIN_END"
  | .lastPulseMs => "LAST_PULSE_MS"
  | .lastEdgeUs => "LAST_EDGE_US"
  | .cmd => "CMD"
  | .out => "OUT"
  | .tTrans => "T_TRANS"
  | .kickEnd => "KICK_END"
  | .invSince => "INV_SINCE"

/-- A number as a `0x` literal. DESIGN CHOICE (log 12): lower-case digits, no leading zeros, and `0x0` for 0. -/
def hexText (n : Nat) : String := "0x" ++ String.ofList (Nat.toDigits 16 n)

/-- The spelling of a REG (R100); a raw offset is a `0x` literal as `hexText` writes it (log 12). -/
def regText : Reg → String
  | .global r => globalName r
  | .channel c r => "CH" ++ toString c.toNat ++ "." ++ channelName r
  | .raw a => hexText a.toNat

/-- The spelling of a size suffix; the default is written without one (R100). -/
def suffixText : SizeSuffix → String
  | .w => ""
  | .h => ".h"
  | .b => ".b"
  | .r => ".r"

/-- A fraction as it is written. DESIGN CHOICE (log 12): a quotient of whole numbers, never with a decimal point. -/
def fracText (num : Int) (den : Nat) : String := if den = 1 then toString num else toString num ++ "/" ++ toString den

/-- The spelling of a VALUE (R100). DESIGN CHOICE (log 12): R100 allows decimal and `0x` literals and leaves open which the
printer writes; every literal is written as a `0x` literal. -/
def valueText : Value → String
  | .lit n => hexText n
  | .pct num den => "pct(" ++ fracText num den ++ ")"
  | .degc num den => "degc(" ++ fracText num den ++ ")"
  | .pair hi lo => "pair(" ++ valueText hi ++ ", " ++ valueText lo ++ ")"
  | .or a b => valueText a ++ " | " ++ valueText b

/-- The spelling of a line (R100, R101). -/
def render : AsmLine → String
  | .rd sz r => "rd" ++ suffixText sz ++ " " ++ regText r
  | .wr sz r v => "wr" ++ suffixText sz ++ " " ++ regText r ++ ", " ++ valueText v
  | .edge n => "edge " ++ toString n
  | .tickUs => "tick_us"
  | .reset => "reset"
  | .waitUs n => "wait_us " ++ toString n
  | .waitMs n => "wait_ms " ++ toString n
  | .start => "start"
  | .stop => "stop"
  | .clrerr => "clrerr"
  | .settemp num den => "settemp " ++ fracText num den
  | .clrtemp => "clrtemp"
  | .setpt n i t tden p pden =>
    "setpt " ++ toString n.toNat ++ ", " ++ toString i.val ++ ", " ++ fracText t tden ++ ", " ++ fracText p pden
  | .setthr n off offden on onden =>
    "setthr " ++ toString n.toNat ++ ", " ++ fracText off offden ++ ", " ++ fracText on onden

end Sys2Proof.Machine
end

