-- ==== Sys2Proof/Machine/AsmText.lean ====
section
/-! DEFINITION. The text form of the assembler (30_encoding.md R100, R101): one operation a line, `;` starts a comment. The
reader is total; a line it cannot read has no meaning (log 12). -/

namespace Sys2Proof.Machine

/-- A token of a line: a run of letters, digits, `_` and `.`, or one other character. -/
inductive Token where
  | word (cs : List Char)
  | sym (c : Char)
  deriving DecidableEq, Repr

/-- The characters of a word: a name, a name with its channel or size suffix, or a number. -/
def wordChar (c : Char) : Bool := c.isAlphanum || c == '_' || c == '.'

/-- Put the word read so far, if there is one, before the tokens that follow; `acc` is reversed. -/
def flushWord (acc : List Char) (rest : List Token) : List Token :=
  match acc with
  | [] => rest
  | _ :: _ => .word acc.reverse :: rest

/-- The tokens of a line; blanks only separate. -/
def tokens (acc : List Char) : List Char → List Token
  | [] => flushWord acc []
  | c :: cs =>
    if wordChar c then tokens (c :: acc) cs
    else if c.isWhitespace then flushWord acc (tokens [] cs)
    else flushWord acc (.sym c :: tokens [] cs)

/-- The line without its comment (R100). -/
def stripComment (line : List Char) : List Char := line.takeWhile (fun c => c != ';')

/-! ### Numbers -/

/-- The value of a digit in base 16. -/
def digitOf (c : Char) : Option Nat :=
  if '0'.toNat ≤ c.toNat ∧ c.toNat ≤ '9'.toNat then some (c.toNat - '0'.toNat)
  else if 'a'.toNat ≤ c.toNat ∧ c.toNat ≤ 'f'.toNat then some (c.toNat - 'a'.toNat + 10)
  else if 'A'.toNat ≤ c.toNat ∧ c.toNat ≤ 'F'.toNat then some (c.toNat - 'A'.toNat + 10)
  else none

/-- The number whose digits in `base` follow `n`. -/
def digitsFrom (base n : Nat) : List Char → Option Nat
  | [] => some n
  | c :: cs =>
    match digitOf c with
    | some d => if d < base then digitsFrom base (n * base + d) cs else none
    | none => none

/-- A run of at least one digit. -/
def digits (base : Nat) (cs : List Char) : Option Nat := if cs.isEmpty then none else digitsFrom base 0 cs

/-- A decimal or `0x` literal (R100). -/
def literal (w : List Char) : Option Nat :=
  match w with
  | '0' :: 'x' :: hs => digits 16 hs
  | _ => digits 10 w

/-- An unsigned number as the fraction `num / den`: a literal, or a decimal with a point. -/
def fraction (w : List Char) : Option (Nat × Nat) :=
  match w.span (fun c => c != '.') with
  | (whole, '.' :: part) =>
    match digits 10 whole, digits 10 part with
    | some n, some m => some (n * 10 ^ part.length + m, 10 ^ part.length)
    | _, _ => none
  | _ => (literal w).map (fun n => (n, 1))

/-- A number at the head of the tokens, with an optional divisor after `/`. -/
def readFraction : List Token → Option ((Nat × Nat) × List Token)
  | .word w :: .sym '/' :: .word d :: rest =>
    match literal w, literal d with
    | some n, some m => some ((n, m), rest)
    | _, _ => none
  | .word w :: rest => (fraction w).map (fun q => (q, rest))
  | _ => none

/-- A signed number at the head of the tokens. -/
def readSigned : List Token → Option ((Int × Nat) × List Token)
  | .sym '-' :: rest => (readFraction rest).map (fun r => ((-(r.1.1 : Int), r.1.2), r.2))
  | ts => (readFraction ts).map (fun r => (((r.1.1 : Int), r.1.2), r.2))

/-! ### REG and VALUE -/

/-- The global registers, in offset order. -/
def globalRegs : List GlobalReg := [.id, .cfg, .ctrl, .err, .nowMs, .nowUs, .temp, .presc]

/-- The channel registers, in offset order. -/
def channelRegs : List ChannelReg :=
  [.debounceUs, .windowMs, .timeoutMs, .ppr, .periodMs, .rate, .alpha, .thresh, .minOnMs, .minOffMs, .kickDuty, .kickMs,
    .holdMs, .safe, .curve0, .curve1] ++
  [.curve2, .curve3, .curve4, .lastTick, .count, .base, .rpm, .delta, .winEnd, .lastPulseMs, .lastEdgeUs, .cmd, .out,
    .tTrans, .kickEnd, .invSince]

/-- A channel number, one digit from 0 to 3. -/
def channelOf (d : Char) : Option ChanIx :=
  match digitOf d with
  | some n => if n < 4 then some (BitVec.ofNat 2 n) else none
  | none => none

/-- REG: a global name, `CHn.NAME`, or a raw offset `0x…` (R100). -/
def readReg (w : List Char) : Option Reg :=
  match w with
  | '0' :: 'x' :: hs =>
    match digits 16 hs with
    | some n => if n < 4096 then some (.raw (BitVec.ofNat 12 n)) else none
    | none => none
  | 'C' :: 'H' :: d :: '.' :: name =>
    match channelOf d, channelRegs.find? (fun r => (channelName r).toList == name) with
    | some c, some r => some (.channel c r)
    | _, _ => none
  | _ => (globalRegs.find? (fun r => (globalName r).toList == w)).map Reg.global

/-- VALUE, reading at most `fuel` terms deep: a literal, a function of R100, and `|` between terms (R101). -/
def readValue : Nat → List Token → Option (Value × List Token)
  | 0, _ => none
  | fuel + 1, ts =>
    let head : Option (Value × List Token) :=
      match ts with
      | .word w :: .sym '(' :: rest =>
        if w = "pct".toList then
          match readFraction rest with
          | some ((n, d), .sym ')' :: rest') => some (.pct n d, rest')
          | _ => none
        else if w = "degc".toList then
          match readSigned rest with
          | some ((n, d), .sym ')' :: rest') => some (.degc n d, rest')
          | _ => none
        else if w = "pair".toList then
          match readValue fuel rest with
          | some (hi, .sym ',' :: rest') =>
            match readValue fuel rest' with
            | some (lo, .sym ')' :: rest'') => some (.pair hi lo, rest'')
            | _ => none
          | _ => none
        else none
      | .word w :: rest => (literal w).map (fun n => (.lit n, rest))
      | _ => none
    match head with
    | some (v, .sym '|' :: rest) => (readValue fuel rest).map (fun r => (.or v r.1, r.2))
    | r => r

/-! ### Lines -/

/-- The size suffix of `rd` or `wr` (R100). -/
def readSuffix (cs : List Char) : Option SizeSuffix :=
  if cs = [] ∨ cs = ".w".toList then some .w
  else if cs = ".h".toList then some .h
  else if cs = ".b".toList then some .b
  else if cs = ".r".toList then some .r
  else none

/-- A line with one number. -/
def readCount (f : Nat → AsmLine) : List Token → Option AsmLine
  | [.word w] => (literal w).map f
  | _ => none

/-- A channel number, as an argument of a pseudo-instruction. -/
def readChan : List Token → Option (ChanIx × List Token)
  | .word [d] :: .sym ',' :: rest => (channelOf d).map (fun c => (c, rest))
  | _ => none

/-- The arguments of `setpt n, i, t, p` (R101). -/
def readSetpt (ts : List Token) : Option AsmLine :=
  match readChan ts with
  | some (n, .word i :: .sym ',' :: rest) =>
    match literal i, readSigned rest with
    | some i, some ((t, td), .sym ',' :: rest') =>
      match readFraction rest' with
      | some ((p, pd), []) => if h : i < 5 then some (.setpt n ⟨i, h⟩ t td p pd) else none
      | _ => none
    | _, _ => none
  | _ => none

/-- The arguments of `setthr n, off, on` (R101). -/
def readSetthr (ts : List Token) : Option AsmLine :=
  match readChan ts with
  | some (n, rest) =>
    match readFraction rest with
    | some ((a, ad), .sym ',' :: rest') =>
      match readFraction rest' with
      | some ((b, bd), []) => some (.setthr n a ad b bd)
      | _ => none
    | _ => none
  | none => none

/-- A `rd` or `wr` line after its size suffix. -/
def readAccess (write : Bool) (sz : SizeSuffix) (ts : List Token) : Option AsmLine :=
  match write, ts with
  | false, [.word r] => (readReg r).map (AsmLine.rd sz)
  | true, .word r :: .sym ',' :: rest =>
    match readReg r, readValue (rest.length + 1) rest with
    | some reg, some (v, []) => some (.wr sz reg v)
    | _, _ => none
  | _, _ => none

/-- The line of a mnemonic and its arguments (R100, R101). -/
def readMnemonic (w : List Char) (ts : List Token) : Option AsmLine :=
  if w = "edge".toList then readCount .edge ts
  else if w = "tick_us".toList then (if ts = [] then some .tickUs else none)
  else if w = "reset".toList then (if ts = [] then some .reset else none)
  else if w = "wait_us".toList then readCount .waitUs ts
  else if w = "wait_ms".toList then readCount .waitMs ts
  else if w = "start".toList then (if ts = [] then some .start else none)
  else if w = "stop".toList then (if ts = [] then some .stop else none)
  else if w = "clrerr".toList then (if ts = [] then some .clrerr else none)
  else if w = "settemp".toList then
    match readSigned ts with
    | some ((n, d), []) => some (.settemp n d)
    | _ => none
  else if w = "clrtemp".toList then (if ts = [] then some .clrtemp else none)
  else if w = "setpt".toList then readSetpt ts
  else if w = "setthr".toList then readSetthr ts
  else
    match w with
    | 'r' :: 'd' :: suffix => (readSuffix suffix).bind (fun sz => readAccess false sz ts)
    | 'w' :: 'r' :: suffix => (readSuffix suffix).bind (fun sz => readAccess true sz ts)
    | _ => none

/-- The operations of a line of text; a blank or comment line has none, a line that cannot be read has no meaning. -/
def assembleLine (line : List Char) : Option (List Presented) :=
  match tokens [] (stripComment line) with
  | [] => some []
  | .word w :: ts => (readMnemonic w ts).bind assemble
  | .sym _ :: _ => none

/-- The lines of a text. -/
def splitLines (acc : List Char) : List Char → List (List Char)
  | [] => [acc.reverse]
  | c :: cs => if c = '\n' then acc.reverse :: splitLines [] cs else splitLines (c :: acc) cs

/-- The operations of a program text, line by line (R100). -/
def assembleText (text : String) : Option (List Presented) :=
  ((splitLines [] text.toList).mapM assembleLine).map List.flatten

end Sys2Proof.Machine
end

