-- ==== Sys2Proof/Machine/RegisterMap.lean ====
section
/-! DEFINITION. The register window as one address space (20_memory.md R70, 10_state.md R22): `MemRead`, `MemWrite`, and the
access envelope of 44_bus_global.md R220 over them for any size and offset. The meanings of the table's rows do not call
these; that both agree is a statement. -/

namespace Sys2Proof.Machine

/-- The read value of global register index `ix` = A[4:2] (R22, R93). -/
def globalWord (s : State) (ix : Nat) : Word :=
  match ix with
  | 0 => Config.idValue
  | 1 => cfgWord s
  | 2 => ctrlWord s
  | 3 => errWord s.err
  | 4 => s.nowMs
  | 5 => s.nowUs
  | 6 => tempWord s.temp
  | _ => prescWord s

/-- The read value of the channel register with rel = 4 * `ix` (R22). -/
def channelWord (ch : Channel) (ix : Nat) : Word :=
  match ix with
  | 0 => ch.cfg.debounceUs
  | 1 => ch.cfg.windowMs
  | 2 => ch.cfg.timeoutMs
  | 3 => ch.cfg.ppr.setWidth 32
  | 4 => ch.cfg.periodMs.setWidth 32
  | 5 => ch.cfg.rate.setWidth 32
  | 6 => ch.cfg.alpha.setWidth 32
  | 7 => threshWord ch.cfg
  | 8 => ch.cfg.minOnMs
  | 9 => ch.cfg.minOffMs
  | 10 => ch.cfg.kickDuty.setWidth 32
  | 11 => ch.cfg.kickMs.setWidth 32
  | 12 => ch.cfg.holdMs
  | 13 => safeWord ch.cfg
  | 14 => pointWord ch.cfg.curve0
  | 15 => pointWord ch.cfg.curve1
  | 16 => pointWord ch.cfg.curve2
  | 17 => pointWord ch.cfg.curve3
  | 18 => pointWord ch.cfg.curve4
  | 19 => ch.ctl.lastTick
  | 20 => ch.pulse.count
  | 21 => ch.est.base
  | 22 => ch.est.rpm
  | 23 => ch.est.delta
  | 24 => ch.est.winEnd
  | 25 => ch.pulse.lastPulseMs
  | 26 => ch.pulse.lastEdgeUs
  | 27 => cmdWord ch.ctl
  | 28 => outWord ch.ctl
  | 29 => ch.ctl.tTrans
  | 30 => ch.ctl.kickEnd
  | _ => ch.ctl.invSince

/-- MemRead(A, 4): the read value at a word-aligned offset; 0 where no register stands (R70, R72, R300). -/
def memRead (s : State) (a : Offset) : Word :=
  if !mapped s.nch a then 0#32
  else if a.extractLsb' 5 7 = 0#7 then globalWord s (a.extractLsb' 2 3).toNat
  else channelWord (chanAt s (a.extractLsb' 7 2)) (a.extractLsb' 2 5).toNat

/-- The configuration with the register of rel = 4 * `ix` written (R32 to R47). -/
def configWith (ix : Nat) (v : Word) (k : ChanConfig) : ChanConfig :=
  match ix with
  | 0 => { k with debounceUs := v }
  | 1 => { k with windowMs := min1 v }
  | 2 => { k with timeoutMs := v }
  | 3 => { k with ppr := min1 (v.extractLsb' 0 8) }
  | 4 => { k with periodMs := min1 (v.extractLsb' 0 31) }
  | 5 => { k with rate := v.extractLsb' 0 24 }
  | 6 => { k with alpha := cap (v.extractLsb' 0 17) Config.alphaOne }
  | 7 => { k with offBelow := lowDuty v, onAbove := highDuty v }
  | 8 => { k with minOnMs := v }
  | 9 => { k with minOffMs := v }
  | 10 => { k with kickDuty := lowDuty v }
  | 11 => { k with kickMs := v.extractLsb' 0 31 }
  | 12 => { k with holdMs := v }
  | 13 => { k with safeDuty := lowDuty v, actEps := highDuty v }
  | 14 => { k with curve0 := pointOfWord v }
  | 15 => { k with curve1 := pointOfWord v }
  | 16 => { k with curve2 := pointOfWord v }
  | 17 => { k with curve3 := pointOfWord v }
  | 18 => { k with curve4 := pointOfWord v }
  | _ => k

/-- MemWrite(A, 4, v): the write rule of the register at `a` (R70); offsets with no write rule change nothing. -/
def memWrite (s : State) (a : Offset) (v : Word) : State :=
  if a = 0x008#12 then writeCtrl v s
  else if a = 0x00C#12 then clearErr s
  else if a = 0x018#12 then { s with temp := tempOfWord v }
  else if a.extractLsb' 9 3 = 1#3 then
    updateChan (a.extractLsb' 7 2) (fun ch => { ch with cfg := configWith (a.extractLsb' 2 5).toNat v ch.cfg }) s
  else s

/-- A bus access of any size at any offset: the envelope of R220, as its pseudocode has it. -/
def busAccess (acc : Access) (sz : BitVec 2) (a : Offset) (s : State) : State :=
  match busCheck s.nch sz a (isWrite acc), acc with
  | some e, _ => busError e a (isWrite acc) s
  | none, .rd => answer .ok (some (memRead s a)) s
  | none, .wr v => answer .ok none (memWrite s a v)

end Sys2Proof.Machine
end

