-- ==== Sys2Proof/Safety.lean ====
section
/-! DEFINITION. What counts as a legal state of the block, and the terms the statements use: when a millisecond event runs a
window or a controller tick of a channel, which operations re-initialise the runtime state, runs of operations, and the tally
of edges and deltas along a run (41_tach_estimator.md R146). -/

namespace Sys2Proof.Machine

/-! ### Legal states -/

/-- Every configuration field holds a value its legalisation can store (10_state.md R32 to R47). -/
abbrev ChanConfig.Legal (k : ChanConfig) : Prop :=
  k.windowMs ≠ 0#32 ∧ k.ppr ≠ 0#8 ∧ k.periodMs ≠ 0#31 ∧ k.alpha.toNat ≤ 65536 ∧
    k.offBelow.toNat ≤ 25600 ∧ k.onAbove.toNat ≤ 25600 ∧ k.kickDuty.toNat ≤ 25600 ∧ k.safeDuty.toNat ≤ 25600 ∧
    k.actEps.toNat ≤ 25600 ∧ k.curve0.y.toNat ≤ 25600 ∧ k.curve1.y.toNat ≤ 25600 ∧ k.curve2.y.toNat ≤ 25600 ∧
    k.curve3.y.toNat ≤ 25600 ∧ k.curve4.y.toNat ≤ 25600

/-- RPM is unknown (-1), stopped (0) or a positive 32-bit signed number (R53, R142). -/
abbrev EstState.Legal (e : EstState) : Prop := e.rpm = 0xFFFFFFFF#32 ∨ e.rpm.toNat ≤ 2147483647

/-- Duties are at most 100 %, OUT is OUTQ as an integer percent, OFF commands no duty, holds no kick and is not active, and
the fail-safe implies an invalid temperature and the latch ON (42_fan_controller.md R162, R165, R167, R168, R170). -/
abbrev CtlState.Legal (u : CtlState) : Prop :=
  u.raw.toNat ≤ 25600 ∧ u.filt.toNat ≤ 25600 ∧ u.outq.toNat ≤ 25600 ∧ u.out.toNat = (u.outq.toNat + 128) / 256 ∧
    (u.latch = .off → u.outq = 0#16 ∧ u.kick = false ∧ u.active = false) ∧
    (u.failsafe = true → u.inv = true ∧ u.latch = .on)

/-- A legal channel. -/
abbrev Channel.Legal (ch : Channel) : Prop := ch.cfg.Legal ∧ ch.est.Legal ∧ ch.ctl.Legal

/-- ERR with no code recorded reads 0 (10_state.md R26, 60_exceptions.md R301). -/
abbrev ErrReg.Legal (e : ErrReg) : Prop := e.code = none → e.offset = 0#12 ∧ e.wr = false ∧ e.ovf = false

/-- A legal state: 1 to 4 channels (R11), a prescaler of 0 to 999 (R30), and every part legal. -/
abbrev State.Legal (s : State) : Prop :=
  (1 ≤ s.nch ∧ s.nch ≤ 4) ∧ s.presc.toNat ≤ 999 ∧ s.err.Legal ∧ ∀ ch ∈ s.chans, ch.Legal

/-! ### What a TICK_US runs -/

/-- The next TICK_US is a millisecond event that runs windows and ticks (R200, R201). -/
abbrev msEventDue (s : State) : Prop := s.en = true ∧ s.presc.toNat = 999

/-- The next TICK_US ends the window of channel `c` (R140, R203). -/
abbrev windowEnds (s : State) (c : ChanIx) : Prop :=
  c.toNat < s.nch ∧ msEventDue s ∧
    (chanAt s c).cfg.windowMs.toNat ≤ (s.nowMs + 1#32 - (chanAt s c).est.winEnd).toNat

/-- The next TICK_US runs a controller tick of channel `c` (R202). -/
abbrev tickRuns (s : State) (c : ChanIx) : Prop :=
  c.toNat < s.nch ∧ msEventDue s ∧
    (chanAt s c).cfg.periodMs.toNat ≤ (s.nowMs + 1#32 - (chanAt s c).ctl.lastTick).toNat

/-- The elapsed time of that tick, in ms (R202). -/
abbrev tickDt (s : State) (c : ChanIx) : Nat := (s.nowMs + 1#32 - (chanAt s c).ctl.lastTick).toNat

/-- An EDGE on channel `c` would be accepted now (R120). -/
abbrev edgeCounts (s : State) (c : ChanIx) : Prop :=
  c.toNat < s.nch ∧ s.en = true ∧
    (chanAt s c).cfg.debounceUs.toNat < (s.nowUs - (chanAt s c).pulse.lastEdgeUs).toNat

/-! ### Runs -/

/-- The operation re-initialises the runtime state: RESET, or a WR CTRL that raises EN (R205, R226). -/
def restarts (i : Instr) (s : State) : Bool :=
  i == .reset || ((encode i).word == 0x6008#16 && !s.en && (encode i).wdata.getLsbD 0)

/-- The state after a run of operations, if each answers a next state (R71: one after the other). -/
def runOps : List Instr → State → Option State
  | [], s => some s
  | i :: is, s =>
    match exec i s with
    | .next t => runOps is t
    | .fault _ => none
    | .refused _ => none

/-- No operation of the run re-initialises the runtime state. -/
def runKeeps : List Instr → State → Bool
  | [], _ => true
  | i :: is, s =>
    !restarts i s &&
      match exec i s with
      | .next t => runKeeps is t
      | .fault _ => true
      | .refused _ => true

/-- The tally of a channel along a run (R146): accepted edges, the sum of the windows' deltas, and the edges accepted since
the last window, all modulo 2^32. -/
structure Tally where
  accepted : Word
  deltas : Word
  sinceWindow : Word
  deriving DecidableEq, Repr

/-- The tally after one more operation that took `s` to `t`. -/
def Tally.after (c : ChanIx) (i : Instr) (s t : State) (n : Tally) : Tally :=
  if i = .edge c ∧ edgeCounts s c then
    { n with accepted := n.accepted + 1#32, sinceWindow := n.sinceWindow + 1#32 }
  else if i = .tickUs ∧ windowEnds s c then
    { n with deltas := n.deltas + (chanAt t c).est.delta, sinceWindow := 0#32 }
  else n

/-- The tally of channel `c` along a run. -/
def tallyOf (c : ChanIx) : List Instr → State → Tally → Tally
  | [], _, n => n
  | i :: is, s, n =>
    match exec i s with
    | .next t => tallyOf c is t (n.after c i s t)
    | .fault _ => n
    | .refused _ => n

/-- How many TICK_US a run holds. -/
def tickCount : List Instr → Nat
  | [] => 0
  | i :: is => (if i = .tickUs then 1 else 0) + tickCount is

/-! ### Accesses -/

/-- The state after an access that raises `e` at offset `a`: ERR takes the error if it holds none and else only sets OVF,
the response is ERR, a read's RDATA is 0, and nothing else changes (60_exceptions.md R300, R301). -/
abbrev erred (e : BusErr) (a : Offset) (wr : Bool) (s : State) : State :=
  { s with
    err := if s.err.code = none then ⟨some e, a, wr, false⟩ else { s.err with ovf := true },
    port := some ⟨.err, if wr then none else some 0#32⟩ }

/-- The state after a read that succeeds with RDATA `v`: nothing but the port has changed (R75, R220). -/
abbrev readOk (v : Nat) (s : State) : State := { s with port := some ⟨.ok, some (BitVec.ofNat 32 v)⟩ }

/-- The state after a write that succeeds and whose effect on the registers is `s`. -/
abbrev writeOk (s : State) : State := { s with port := some ⟨.ok, none⟩ }

/-- `s` with channel `c`'s configuration changed by `f`, and nothing else. -/
abbrev withConfig (c : ChanIx) (f : ChanConfig → ChanConfig) (s : State) : State :=
  { s with chans := s.chans.modify c.toNat (fun ch => { ch with cfg := f ch.cfg }) }

/-- The access that an operation word stands for. -/
def accessOf (p : Presented) : Access := if opKind p.word = 0#2 then .rd else .wr p.wdata

/-- An offset at which a register stands, for NCH = `nch` <= 4 (R22, R72). -/
abbrev registerAt (nch : Nat) (a : Offset) : Prop :=
  a.toNat < 0x20 ∨ (0x200 ≤ a.toNat ∧ a.toNat < 0x200 + 0x80 * min nch 4)

/-- An offset of the read-only registers ID, CFG, NOW_MS, NOW_US and PRESC, or of a channel's status registers (R22). -/
abbrev readOnlyAt (a : Offset) : Prop :=
  a.toNat = 0x000 ∨ a.toNat = 0x004 ∨ a.toNat = 0x010 ∨ a.toNat = 0x014 ∨ a.toNat = 0x01C ∨
    (0x200 ≤ a.toNat ∧ a.toNat < 0x400 ∧ 0x4C ≤ a.toNat % 0x80)

/-! ### Nearest values -/

/-- `v` is n/d rounded to nearest with ties away from zero, for d > 0: the defining property of rdiv (R14). -/
abbrev roundsTo (n d v : Int) : Prop :=
  2 * (v * d - n).natAbs ≤ d.natAbs ∧ (2 * (v * d - n).natAbs = d.natAbs → n.natAbs < (v * d).natAbs)

/-- `v` is the duty on the segment from `p` to `q` at temperature `t` (R161). -/
abbrev onSegment (p q : CurvePoint) (t : Int) (v : Nat) : Prop :=
  roundsTo ((t - p.x.toInt) * ((q.y.toNat : Int) - p.y.toNat)) (q.x.toInt - p.x.toInt) ((v : Int) - p.y.toNat) ∧
    min p.y.toNat q.y.toNat ≤ v ∧ v ≤ max p.y.toNat q.y.toNat

end Sys2Proof.Machine
end

