-- ==== Sys2Proof/Certificates/Slice0/Obligations.lean ====
section
/-! DEFINITION. The statements for the provers, each a proposition about the machine of Sys2Proof/Machine, from the numbered
rules of the spec. OBLIGATIONS.json gives each its tier, basis and the rules it cites. -/

open Sys2Proof Sys2Proof.Machine

/-- For every NCH and every well-formed operation, with every channel number, offset, size and operand, the decoder
reads the encoded word and operand as that operation. [30_encoding.md R92; 30_encoding.md R93; 30_encoding.md R95;
30_encoding.md R99] -/
def Obligations.DecodeOfEncodeIsTheInstruction : Prop :=
  ∀ (nch : Nat) (i : Instr), wellFormed nch i = true → decode nch (encode i) = .ok i

/-- Whatever operation the decoder reads from a word is well-formed, its encoded word is that word with every bit, and
for a write its operand is that WDATA. [30_encoding.md R91; 30_encoding.md R95; 30_encoding.md R97; 30_encoding.md
R99] -/
def Obligations.EncodeOfDecodeIsTheWord : Prop :=
  ∀ (nch : Nat) (p : Presented) (i : Instr), decode nch p = .ok i →
    wellFormed nch i = true ∧ (encode i).word = p.word ∧ (opKind p.word = 1#2 → (encode i).wdata = p.wdata)

/-- A word is refused as no tach input exactly when it lies in 0x8000 to 0xBFFF and is not 0x8000 | c for a channel c
< NCH, and as no system event exactly when it is 0xC002 or above; every other word is some operation. [30_encoding.md
R95; 30_encoding.md R96] -/
def Obligations.DecoderRefusesExactlyTheUnusedWords : Prop :=
  ∀ (nch : Nat) (p : Presented),
    (decode nch p = .error .noSuchTachInput ↔
      0x8000 ≤ p.word.toNat ∧ p.word.toNat < 0xC000 ∧ ¬ (p.word.toNat < 0x8004 ∧ p.word.toNat - 0x8000 < nch)) ∧
    (decode nch p = .error .noSuchSystemEvent ↔ 0xC002 ≤ p.word.toNat)

/-- RD CH0.RPM is 0x2258, RD CH1.RPM 0x22D8, WR CH0.WINDOW_MS 0x6204, EDGE on channel 1 0x8001, TICK_US 0xC000, RESET
0xC001, and a byte read of CH0.COUNT 0x0250. [30_encoding.md R99; 95_test_vectors.md section 7] -/
def Obligations.WordsOfTheSpecDecode : Prop :=
  decode 2 ⟨0x2258#16, 0#32⟩ = .ok (.rdChRpm 0#2) ∧ decode 2 ⟨0x22D8#16, 0#32⟩ = .ok (.rdChRpm 1#2) ∧
    decode 2 ⟨0x6204#16, 500#32⟩ = .ok (.wrChWindowMs 0#2 500#32) ∧ decode 2 ⟨0x8001#16, 0#32⟩ = .ok (.edge 1#2) ∧
    decode 2 ⟨0xC000#16, 0#32⟩ = .ok .tickUs ∧ decode 2 ⟨0xC001#16, 0#32⟩ = .ok .reset ∧
    decode 2 ⟨0x0250#16, 0#32⟩ = .ok (.badSize .rd 0#2 0x250#12)

/-- For every operation, the line the printer writes, as a syntax tree of the model's assembler, assembles to exactly
the encoded operation; it writes a raw offset only where no global register and no channel register, of an absent
channel either, has that offset. [30_encoding.md R100] That a line is a syntax tree, and that a name is written for an
absent channel too, is the model's choice (log 12). -/
def Obligations.PrintedOperationAssemblesBack : Prop :=
  ∀ i : Instr, assemble (printLine i) = some [encode i] ∧
    ∀ (sz : SizeSuffix) (a : Offset) (v : Value), printLine i = .rd sz (.raw a) ∨ printLine i = .wr sz (.raw a) v →
      (∀ r : GlobalReg, regOffset (.global r) ≠ a) ∧ ∀ (c : ChanIx) (r : ChannelReg), regOffset (.channel c r) ≠ a

/-- When the word presented next decodes to an operation, the step is that operation on the state with the word taken
from the list; a refused word is refused by its name; with nothing presented the state stays (log entries 1 and 2 are
the model's choice). [20_memory.md R71; 30_encoding.md R95] The list of pending operations and the idle step are the
model's choice (log 1, log 2). -/
def Obligations.StepRunsTheDecodedOperation : Prop :=
  ∀ s : State,
    (∀ p rest i, s.pending = p :: rest → decode s.nch p = .ok i → step s = exec i { s with pending := rest }) ∧
    (∀ p rest, s.pending = p :: rest → decode s.nch p = .error .noSuchTachInput → step s = .refused .noSuchTachInput) ∧
    (∀ p rest, s.pending = p :: rest → decode s.nch p = .error .noSuchSystemEvent →
      step s = .refused .noSuchSystemEvent) ∧
    (s.pending = [] → step s = .next s)

/-- Whatever operation runs, the operations still to come (the model's own list, log 1) and the channel count are
unchanged. [30_encoding.md R98; 10_state.md R24] The list of pending operations is the model's own field (log 1). -/
def Obligations.NoOperationChoosesItsSuccessor : Prop :=
  ∀ (i : Instr) (s t : State), exec i s = .next t → t.pending = s.pending ∧ t.nch = s.nch

/-- From every state, every well-formed operation answers a next state: no condition of the block halts it. That exec,
like the decoder, refuses an EDGE on an input that does not exist is the model's choice (log 6). [60_exceptions.md
R307; 60_exceptions.md R300; 30_encoding.md R95] R95 has the decoder refuse such a word; that exec refuses the
operation under the same name is the model's choice (log 6, DEDUCED). -/
def Obligations.WellFormedOperationsAlwaysComplete : Prop :=
  ∀ (s : State) (i : Instr),
    (wellFormed s.nch i = true → ∃ t, exec i s = .next t) ∧
    (∀ c : ChanIx, i = .edge c → s.nch ≤ c.toNat → exec i s = .refused .noSuchTachInput)

/-- 1 to 4 channels, every configuration field legal, every duty at most 100 %, the prescaler below 1000. The channel
count 4 is the model's choice (log 3). [70_reset_and_hazards.md R340; 10_state.md R49; 10_state.md R65] NCH = 4 at
State.reset is the model's choice (log 3). -/
def Obligations.ResetStateIsLegal : Prop :=
  State.reset.Legal

/-- From every legal state, a step that answers a next state leaves a legal state: configuration fields legalised,
RAW, FILT and OUTQ at most 100 %, OUT the integer percent of OUTQ, RPM -1 or not negative, OFF commanding no duty, the
fail-safe only with the latch ON, ERR zero when no code is recorded, PRESC below 1000. [10_state.md R32; 10_state.md
R30; 10_state.md R26; 41_tach_estimator.md R142; 42_fan_controller.md R170; 42_fan_controller.md R165;
60_exceptions.md R301] -/
def Obligations.EveryStepKeepsTheStateLegal : Prop :=
  ∀ s t : State, s.Legal → step s = .next t → t.Legal

/-- EN, ERR, both counters, the prescaler and TEMP are 0; in every channel WINDOW_MS, PPR and PERIOD_MS are 1, RPM is
0xFFFFFFFF, the latch is OFF and every other field is 0, for every NCH; ID reads 0x544C4607 and CFG reads NCH. A start
leaves every channel's runtime state at its start values and changes no configuration, and of the globals only EN.
That State.reset is the reset state of a block with Config.nch channels is the model's choice (log 3, with log 1 and
log 4). [10_state.md R49; 10_state.md R65] No rule is cited for the clause State.reset = State.resetWith Config.nch:
it is the model's choice (log 3), as are the empty input list (log 1) and port (log 4) in it. -/
def Obligations.ResetStateHoldsTheResetValues : Prop :=
  State.reset.en = false ∧ State.reset.err = ⟨none, 0#12, false, false⟩ ∧ State.reset.nowMs = 0#32 ∧
    State.reset.nowUs = 0#32 ∧ State.reset.presc = 0#10 ∧ State.reset.temp = ⟨0#16, false⟩ ∧
    State.reset = State.resetWith Config.nch ∧
    (∀ n : Nat, ∀ ch ∈ (State.resetWith n).chans, ch =
      ⟨⟨0#32, 1#32, 0#32, 1#8, 1#31, 0#24, 0#17, 0#16, 0#16, 0#32, 0#32, 0#16, 0#31, 0#32, 0#16, 0#16, ⟨0#16, 0#16⟩,
          ⟨0#16, 0#16⟩, ⟨0#16, 0#16⟩, ⟨0#16, 0#16⟩, ⟨0#16, 0#16⟩⟩, ⟨0#32, 0#32, 0#32⟩,
        ⟨0#32, 0xFFFFFFFF#32, 0#32, 0#32⟩,
        ⟨0#32, 0#16, 0#16, 0#16, 0#7, false, .off, false, false, false, 0#32, 0#32, 0#32⟩⟩) ∧
    (∀ n : Nat, n < 8 → memRead (State.resetWith n) 0x000#12 = 0x544C4607#32 ∧
      (memRead (State.resetWith n) 0x004#12).toNat = n) ∧
    (∀ s : State, s.en = false → ∃ t, exec (.wrCtrl 1#32) s = .next t ∧ ∀ ch ∈ t.chans,
      ch.pulse = ⟨0#32, s.nowUs, s.nowMs⟩ ∧ ch.est = ⟨0#32, 0xFFFFFFFF#32, 0#32, s.nowMs⟩ ∧
      ch.ctl = ⟨s.nowMs, 0#16, 0#16, 0#16, 0#7, false, .off, false, false, false, s.nowMs, s.nowMs, s.nowMs⟩) ∧
    (∀ s t : State, s.en = false → exec (.wrCtrl 1#32) s = .next t →
      t = { s with en := true, chans := t.chans, port := t.port } ∧
        t.chans.map (fun ch => ch.cfg) = s.chans.map (fun ch => ch.cfg))

/-- From every state, RESET (word 0xC001) completes and leaves the globals and every channel as they are after reset,
for whatever NCH the block has; the model's input list and port keep their contents (log 1, log 4). [43_timebase.md
R205; 70_reset_and_hazards.md R340; 70_reset_and_hazards.md R343] That the port and the input list are kept is the
model's choice (log 1, log 4). -/
def Obligations.ResetOperationRestoresTheResetState : Prop :=
  (∀ n w, decode n ⟨0xC001#16, w⟩ = .ok .reset) ∧
    ∀ s : State, exec .reset s = .next
      { en := false, err := ⟨none, 0#12, false, false⟩, nowMs := 0#32, nowUs := 0#32, temp := ⟨0#16, false⟩,
        presc := 0#10, port := s.port, pending := s.pending,
        chans := List.replicate s.nch ⟨⟨0#32, 1#32, 0#32, 1#8, 1#31, 0#24, 0#17, 0#16, 0#16, 0#32, 0#32, 0#16, 0#31, 0#32, 0#16, 0#16, ⟨0#16, 0#16⟩,
          ⟨0#16, 0#16⟩, ⟨0#16, 0#16⟩, ⟨0#16, 0#16⟩, ⟨0#16, 0#16⟩⟩, ⟨0#32, 0#32, 0#32⟩,
        ⟨0#32, 0xFFFFFFFF#32, 0#32, 0#32⟩,
        ⟨0#32, 0#16, 0#16, 0#16, 0#7, false, .off, false, false, false, 0#32, 0#32, 0#32⟩⟩ }

/-- The eight words 0x2000 to 0x201C are the reads of ID, CFG, CTRL, ERR, NOW_MS, NOW_US, TEMP and PRESC; each
completes in every state with response OK and the register's packed value as RDATA, and changes nothing but the port.
No operation changes ID or NCH. [R221; R222; R223; R227; R229; R230; R231] -/
def Obligations.GlobalReadsReturnTheRegisters : Prop :=
  (∀ n w, decode n ⟨0x2000#16, w⟩ = .ok .rdId ∧
    decode n ⟨0x2004#16, w⟩ = .ok .rdCfg ∧
    decode n ⟨0x2008#16, w⟩ = .ok .rdCtrl ∧
    decode n ⟨0x200C#16, w⟩ = .ok .rdErr ∧
    decode n ⟨0x2010#16, w⟩ = .ok .rdNowMs ∧
    decode n ⟨0x2014#16, w⟩ = .ok .rdNowUs ∧
    decode n ⟨0x2018#16, w⟩ = .ok .rdTemp ∧
    decode n ⟨0x201C#16, w⟩ = .ok .rdPresc) ∧
  (∀ s : State, exec .rdId s = .next (readOk 0x544C4607 s) ∧
    exec .rdCfg s = .next (readOk (s.nch % 8) s) ∧
    exec .rdCtrl s = .next (readOk (if s.en then 1 else 0) s) ∧
    exec .rdErr s = .next (readOk ((if s.err.ovf then 2147483648 else 0) + (if s.err.wr then 1048576 else 0) + s.err.offset.toNat * 256 +
        (match s.err.code with
          | none => 0
          | some .unmapped => 1
          | some .size => 2
          | some .misalign => 3
          | some .roWrite => 4)) s) ∧
    exec .rdNowMs s = .next (readOk s.nowMs.toNat s) ∧
    exec .rdNowUs s = .next (readOk s.nowUs.toNat s) ∧
    exec .rdTemp s = .next (readOk ((if s.temp.valid then 65536 else 0) + s.temp.t.toNat) s) ∧
    exec .rdPresc s = .next (readOk s.presc.toNat s)) ∧
  (∀ (i : Instr) (s t : State), exec i s = .next t →
    memRead t 0x000#12 = memRead s 0x000#12 ∧ memRead t 0x004#12 = memRead s 0x004#12)

/-- WR CTRL (word 0x6008) takes EN from bit 0 of the operand: a rise re-initialises every channel's runtime state at
the current stamps and keeps the configuration, TEMP, ERR and the timebase; a fall changes nothing but EN; the value
EN already has changes nothing. [R224; R226] -/
def Obligations.WriteCtrlStartsAndStops : Prop :=
  (∀ n v, decode n ⟨0x6008#16, v⟩ = .ok (.wrCtrl v)) ∧
  ∀ (s : State) (v : Word),
    (s.en = false → v.getLsbD 0 = true → exec (.wrCtrl v) s = .next (writeOk
      { s with
        en := true,
        chans := s.chans.map (fun ch =>
          { cfg := ch.cfg, pulse := ⟨0#32, s.nowUs, s.nowMs⟩, est := ⟨0#32, 0xFFFFFFFF#32, 0#32, s.nowMs⟩,
            ctl := ⟨s.nowMs, 0#16, 0#16, 0#16, 0#7, false, .off, false, false, false, s.nowMs, s.nowMs, s.nowMs⟩ }) })) ∧
    (s.en = true → v.getLsbD 0 = true → exec (.wrCtrl v) s = .next (writeOk s)) ∧
    (v.getLsbD 0 = false → exec (.wrCtrl v) s = .next (writeOk { s with en := false }))

/-- WR ERR (word 0x600C) completes in every state and sets the whole register to 0 for every operand; nothing else
changes. [R228] -/
def Obligations.WriteErrClearsErr : Prop :=
  (∀ n v, decode n ⟨0x600C#16, v⟩ = .ok (.wrErr v)) ∧
  ∀ (s : State) (v : Word), exec (.wrErr v) s = .next (writeOk { s with err := ⟨none, 0#12, false, false⟩ }) ∧
    (∀ t, exec (.wrErr v) s = .next t → memRead t 0x00C#12 = 0#32)

/-- WR TEMP (word 0x6018) completes in every state, stores the operand's low half as T and bit 16 as VALID, ignores
the rest, and changes nothing else, so the controller reads the new value only at its next tick. [R232] -/
def Obligations.WriteTempStoresValueAndValidity : Prop :=
  (∀ n v, decode n ⟨0x6018#16, v⟩ = .ok (.wrTemp v)) ∧
  ∀ (s : State) (v : Word), exec (.wrTemp v) s =
    .next (writeOk { s with temp := ⟨BitVec.ofNat 16 (v.toNat % 65536), decide (v.toNat / 65536 % 2 = 1)⟩ })

/-- WR of ID, CFG, NOW_MS, NOW_US and PRESC (words 0x6000, 0x6004, 0x6010, 0x6014, 0x601C) completes in every state
with response ERR, records RO_WRITE at its offset, and changes nothing but ERR. [R234] -/
def Obligations.ReadOnlyGlobalsRejectWrites : Prop :=
  (∀ n v, decode n ⟨0x6000#16, v⟩ = .ok (.wrId v) ∧
    decode n ⟨0x6004#16, v⟩ = .ok (.wrCfg v) ∧
    decode n ⟨0x6010#16, v⟩ = .ok (.wrNowMs v) ∧
    decode n ⟨0x6014#16, v⟩ = .ok (.wrNowUs v) ∧
    decode n ⟨0x601C#16, v⟩ = .ok (.wrPresc v)) ∧
  ∀ (s : State) (v : Word), exec (.wrId v) s = .next (erred .roWrite 0x000#12 true s) ∧
    exec (.wrCfg v) s = .next (erred .roWrite 0x004#12 true s) ∧
    exec (.wrNowMs v) s = .next (erred .roWrite 0x010#12 true s) ∧
    exec (.wrNowUs v) s = .next (erred .roWrite 0x014#12 true s) ∧
    exec (.wrPresc v) s = .next (erred .roWrite 0x01C#12 true s)

/-- For every channel that exists, the read of each of the nineteen configuration registers, at the word 0x2200 | (c
<< 7) | rel, completes with response OK, the register's fields packed in RDATA and its reserved bits 0, and changes
nothing but the port. [R265; R267; R269; R271; R273; R275; R277; R279] -/
def Obligations.ConfigReadsReturnTheRegisters : Prop :=
  (∀ n w (c : ChanIx), decode n ⟨0x2200#16 ||| (c.setWidth 16 <<< 7), w⟩ = .ok (.rdChDebounceUs c) ∧
    decode n ⟨0x2204#16 ||| (c.setWidth 16 <<< 7), w⟩ = .ok (.rdChWindowMs c) ∧
    decode n ⟨0x2208#16 ||| (c.setWidth 16 <<< 7), w⟩ = .ok (.rdChTimeoutMs c) ∧
    decode n ⟨0x220C#16 ||| (c.setWidth 16 <<< 7), w⟩ = .ok (.rdChPpr c) ∧
    decode n ⟨0x2210#16 ||| (c.setWidth 16 <<< 7), w⟩ = .ok (.rdChPeriodMs c) ∧
    decode n ⟨0x2214#16 ||| (c.setWidth 16 <<< 7), w⟩ = .ok (.rdChRate c) ∧
    decode n ⟨0x2218#16 ||| (c.setWidth 16 <<< 7), w⟩ = .ok (.rdChAlpha c) ∧
    decode n ⟨0x221C#16 ||| (c.setWidth 16 <<< 7), w⟩ = .ok (.rdChThresh c) ∧
    decode n ⟨0x2220#16 ||| (c.setWidth 16 <<< 7), w⟩ = .ok (.rdChMinOnMs c) ∧
    decode n ⟨0x2224#16 ||| (c.setWidth 16 <<< 7), w⟩ = .ok (.rdChMinOffMs c) ∧
    decode n ⟨0x2228#16 ||| (c.setWidth 16 <<< 7), w⟩ = .ok (.rdChKickDuty c) ∧
    decode n ⟨0x222C#16 ||| (c.setWidth 16 <<< 7), w⟩ = .ok (.rdChKickMs c) ∧
    decode n ⟨0x2230#16 ||| (c.setWidth 16 <<< 7), w⟩ = .ok (.rdChHoldMs c) ∧
    decode n ⟨0x2234#16 ||| (c.setWidth 16 <<< 7), w⟩ = .ok (.rdChSafe c) ∧
    decode n ⟨0x2238#16 ||| (c.setWidth 16 <<< 7), w⟩ = .ok (.rdChCurve0 c) ∧
    decode n ⟨0x223C#16 ||| (c.setWidth 16 <<< 7), w⟩ = .ok (.rdChCurve1 c) ∧
    decode n ⟨0x2240#16 ||| (c.setWidth 16 <<< 7), w⟩ = .ok (.rdChCurve2 c) ∧
    decode n ⟨0x2244#16 ||| (c.setWidth 16 <<< 7), w⟩ = .ok (.rdChCurve3 c) ∧
    decode n ⟨0x2248#16 ||| (c.setWidth 16 <<< 7), w⟩ = .ok (.rdChCurve4 c)) ∧
  ∀ (s : State) (c : ChanIx) (ch : Channel), s.chans[c.toNat]? = some ch →
    exec (.rdChDebounceUs c) s = .next (readOk ch.cfg.debounceUs.toNat s) ∧
    exec (.rdChWindowMs c) s = .next (readOk ch.cfg.windowMs.toNat s) ∧
    exec (.rdChTimeoutMs c) s = .next (readOk ch.cfg.timeoutMs.toNat s) ∧
    exec (.rdChPpr c) s = .next (readOk ch.cfg.ppr.toNat s) ∧
    exec (.rdChPeriodMs c) s = .next (readOk ch.cfg.periodMs.toNat s) ∧
    exec (.rdChRate c) s = .next (readOk ch.cfg.rate.toNat s) ∧
    exec (.rdChAlpha c) s = .next (readOk ch.cfg.alpha.toNat s) ∧
    exec (.rdChThresh c) s = .next (readOk (ch.cfg.onAbove.toNat * 65536 + ch.cfg.offBelow.toNat) s) ∧
    exec (.rdChMinOnMs c) s = .next (readOk ch.cfg.minOnMs.toNat s) ∧
    exec (.rdChMinOffMs c) s = .next (readOk ch.cfg.minOffMs.toNat s) ∧
    exec (.rdChKickDuty c) s = .next (readOk ch.cfg.kickDuty.toNat s) ∧
    exec (.rdChKickMs c) s = .next (readOk ch.cfg.kickMs.toNat s) ∧
    exec (.rdChHoldMs c) s = .next (readOk ch.cfg.holdMs.toNat s) ∧
    exec (.rdChSafe c) s = .next (readOk (ch.cfg.actEps.toNat * 65536 + ch.cfg.safeDuty.toNat) s) ∧
    exec (.rdChCurve0 c) s = .next (readOk (ch.cfg.curve0.y.toNat * 65536 + ch.cfg.curve0.x.toNat) s) ∧
    exec (.rdChCurve1 c) s = .next (readOk (ch.cfg.curve1.y.toNat * 65536 + ch.cfg.curve1.x.toNat) s) ∧
    exec (.rdChCurve2 c) s = .next (readOk (ch.cfg.curve2.y.toNat * 65536 + ch.cfg.curve2.x.toNat) s) ∧
    exec (.rdChCurve3 c) s = .next (readOk (ch.cfg.curve3.y.toNat * 65536 + ch.cfg.curve3.x.toNat) s) ∧
    exec (.rdChCurve4 c) s = .next (readOk (ch.cfg.curve4.y.toNat * 65536 + ch.cfg.curve4.x.toNat) s)

/-- For every channel that exists and every operand, the write of DEBOUNCE_US, WINDOW_MS, TIMEOUT_MS, PPR, PERIOD_MS,
RATE, ALPHA, MIN_ON_MS, MIN_OFF_MS, KICK_MS and HOLD_MS completes and stores the legalised field bits in that
channel's configuration; nothing else changes. [R254; R256; R258; R260; R262; R264; R268; R270; R274; R276] -/
def Obligations.TimingConfigWritesStoreLegalFields : Prop :=
  (∀ n v (c : ChanIx), decode n ⟨0x6200#16 ||| (c.setWidth 16 <<< 7), v⟩ = .ok (.wrChDebounceUs c v) ∧
    decode n ⟨0x6204#16 ||| (c.setWidth 16 <<< 7), v⟩ = .ok (.wrChWindowMs c v) ∧
    decode n ⟨0x6208#16 ||| (c.setWidth 16 <<< 7), v⟩ = .ok (.wrChTimeoutMs c v) ∧
    decode n ⟨0x620C#16 ||| (c.setWidth 16 <<< 7), v⟩ = .ok (.wrChPpr c v) ∧
    decode n ⟨0x6210#16 ||| (c.setWidth 16 <<< 7), v⟩ = .ok (.wrChPeriodMs c v) ∧
    decode n ⟨0x6214#16 ||| (c.setWidth 16 <<< 7), v⟩ = .ok (.wrChRate c v) ∧
    decode n ⟨0x6218#16 ||| (c.setWidth 16 <<< 7), v⟩ = .ok (.wrChAlpha c v) ∧
    decode n ⟨0x6220#16 ||| (c.setWidth 16 <<< 7), v⟩ = .ok (.wrChMinOnMs c v) ∧
    decode n ⟨0x6224#16 ||| (c.setWidth 16 <<< 7), v⟩ = .ok (.wrChMinOffMs c v) ∧
    decode n ⟨0x622C#16 ||| (c.setWidth 16 <<< 7), v⟩ = .ok (.wrChKickMs c v) ∧
    decode n ⟨0x6230#16 ||| (c.setWidth 16 <<< 7), v⟩ = .ok (.wrChHoldMs c v)) ∧
  ∀ (s : State) (c : ChanIx) (v : Word), c.toNat < s.nch →
    exec (.wrChDebounceUs c v) s = .next (writeOk (withConfig c (fun k => { k with debounceUs := v }) s)) ∧
    exec (.wrChWindowMs c v) s = .next (writeOk (withConfig c (fun k => { k with windowMs := BitVec.ofNat 32 (max v.toNat 1) }) s)) ∧
    exec (.wrChTimeoutMs c v) s = .next (writeOk (withConfig c (fun k => { k with timeoutMs := v }) s)) ∧
    exec (.wrChPpr c v) s = .next (writeOk (withConfig c (fun k => { k with ppr := BitVec.ofNat 8 (max (v.toNat % 256) 1) }) s)) ∧
    exec (.wrChPeriodMs c v) s = .next (writeOk (withConfig c (fun k => { k with periodMs := BitVec.ofNat 31 (max (v.toNat % 2147483648) 1) }) s)) ∧
    exec (.wrChRate c v) s = .next (writeOk (withConfig c (fun k => { k with rate := BitVec.ofNat 24 (v.toNat % 16777216) }) s)) ∧
    exec (.wrChAlpha c v) s = .next (writeOk (withConfig c (fun k => { k with alpha := BitVec.ofNat 17 (min (v.toNat % 131072) 65536) }) s)) ∧
    exec (.wrChMinOnMs c v) s = .next (writeOk (withConfig c (fun k => { k with minOnMs := v }) s)) ∧
    exec (.wrChMinOffMs c v) s = .next (writeOk (withConfig c (fun k => { k with minOffMs := v }) s)) ∧
    exec (.wrChKickMs c v) s = .next (writeOk (withConfig c (fun k => { k with kickMs := BitVec.ofNat 31 (v.toNat % 2147483648) }) s)) ∧
    exec (.wrChHoldMs c v) s = .next (writeOk (withConfig c (fun k => { k with holdMs := v }) s))

/-- For every channel that exists and every operand, the write of THRESH, KICK_DUTY, SAFE and CURVE0 to CURVE4
completes and stores each duty field capped at 25600 and each temperature field raw in that channel's configuration;
nothing else changes. [R266; R272; R278; R280] -/
def Obligations.DutyConfigWritesStoreLegalFields : Prop :=
  (∀ n v (c : ChanIx), decode n ⟨0x621C#16 ||| (c.setWidth 16 <<< 7), v⟩ = .ok (.wrChThresh c v) ∧
    decode n ⟨0x6228#16 ||| (c.setWidth 16 <<< 7), v⟩ = .ok (.wrChKickDuty c v) ∧
    decode n ⟨0x6234#16 ||| (c.setWidth 16 <<< 7), v⟩ = .ok (.wrChSafe c v) ∧
    decode n ⟨0x6238#16 ||| (c.setWidth 16 <<< 7), v⟩ = .ok (.wrChCurve0 c v) ∧
    decode n ⟨0x623C#16 ||| (c.setWidth 16 <<< 7), v⟩ = .ok (.wrChCurve1 c v) ∧
    decode n ⟨0x6240#16 ||| (c.setWidth 16 <<< 7), v⟩ = .ok (.wrChCurve2 c v) ∧
    decode n ⟨0x6244#16 ||| (c.setWidth 16 <<< 7), v⟩ = .ok (.wrChCurve3 c v) ∧
    decode n ⟨0x6248#16 ||| (c.setWidth 16 <<< 7), v⟩ = .ok (.wrChCurve4 c v)) ∧
  ∀ (s : State) (c : ChanIx) (v : Word), c.toNat < s.nch →
    exec (.wrChThresh c v) s = .next (writeOk (withConfig c (fun k => { k with offBelow := BitVec.ofNat 16 (min (v.toNat % 65536) 25600), onAbove := BitVec.ofNat 16 (min (v.toNat / 65536) 25600) }) s)) ∧
    exec (.wrChKickDuty c v) s = .next (writeOk (withConfig c (fun k => { k with kickDuty := BitVec.ofNat 16 (min (v.toNat % 65536) 25600) }) s)) ∧
    exec (.wrChSafe c v) s = .next (writeOk (withConfig c (fun k => { k with safeDuty := BitVec.ofNat 16 (min (v.toNat % 65536) 25600), actEps := BitVec.ofNat 16 (min (v.toNat / 65536) 25600) }) s)) ∧
    exec (.wrChCurve0 c v) s = .next (writeOk (withConfig c (fun k => { k with curve0 := ⟨BitVec.ofNat 16 (v.toNat % 65536), BitVec.ofNat 16 (min (v.toNat / 65536) 25600)⟩ }) s)) ∧
    exec (.wrChCurve1 c v) s = .next (writeOk (withConfig c (fun k => { k with curve1 := ⟨BitVec.ofNat 16 (v.toNat % 65536), BitVec.ofNat 16 (min (v.toNat / 65536) 25600)⟩ }) s)) ∧
    exec (.wrChCurve2 c v) s = .next (writeOk (withConfig c (fun k => { k with curve2 := ⟨BitVec.ofNat 16 (v.toNat % 65536), BitVec.ofNat 16 (min (v.toNat / 65536) 25600)⟩ }) s)) ∧
    exec (.wrChCurve3 c v) s = .next (writeOk (withConfig c (fun k => { k with curve3 := ⟨BitVec.ofNat 16 (v.toNat % 65536), BitVec.ofNat 16 (min (v.toNat / 65536) 25600)⟩ }) s)) ∧
    exec (.wrChCurve4 c v) s = .next (writeOk (withConfig c (fun k => { k with curve4 := ⟨BitVec.ofNat 16 (v.toNat % 65536), BitVec.ofNat 16 (min (v.toNat / 65536) 25600)⟩ }) s))

/-- A successful write other than WR CTRL leaves the read value at every offset but its own; a write that errs leaves
the read value at every offset but ERR's; and writing is idempotent: the same successful write again changes nothing.
[20_memory.md R75; 20_memory.md R77; 45_bus_channel.md R250; 60_exceptions.md R300] -/
def Obligations.WritesLeaveEveryOtherRegister : Prop :=
  ∀ (i : Instr) (s t : State), opKind (encode i).word = 1#2 → exec i s = .next t →
    ((∀ v, i ≠ .wrCtrl v) → t.port = some ⟨.ok, none⟩ →
      ∀ a : Offset, a.toNat / 4 ≠ (opOffset (encode i).word).toNat / 4 → memRead t a = memRead s a) ∧
    (t.port = some ⟨.err, none⟩ → ∀ a : Offset, a.toNat / 4 ≠ 3 → memRead t a = memRead s a) ∧
    (t.port = some ⟨.ok, none⟩ → exec i t = .next t)

/-- For every channel that exists, the read of each of the thirteen status registers, at the word 0x2200 | (c << 7) |
rel, completes with response OK and the fields of one instant packed in RDATA, and changes nothing but the port: the
read of COUNT does not rebase it. [R402; R404; R406; R407; R408; R409; R410; R412] -/
def Obligations.StatusReadsReturnTheRegisters : Prop :=
  (∀ n w (c : ChanIx), decode n ⟨0x224C#16 ||| (c.setWidth 16 <<< 7), w⟩ = .ok (.rdChLastTick c) ∧
    decode n ⟨0x2250#16 ||| (c.setWidth 16 <<< 7), w⟩ = .ok (.rdChCount c) ∧
    decode n ⟨0x2254#16 ||| (c.setWidth 16 <<< 7), w⟩ = .ok (.rdChBase c) ∧
    decode n ⟨0x2258#16 ||| (c.setWidth 16 <<< 7), w⟩ = .ok (.rdChRpm c) ∧
    decode n ⟨0x225C#16 ||| (c.setWidth 16 <<< 7), w⟩ = .ok (.rdChDelta c) ∧
    decode n ⟨0x2260#16 ||| (c.setWidth 16 <<< 7), w⟩ = .ok (.rdChWinEnd c) ∧
    decode n ⟨0x2264#16 ||| (c.setWidth 16 <<< 7), w⟩ = .ok (.rdChLastPulseMs c) ∧
    decode n ⟨0x2268#16 ||| (c.setWidth 16 <<< 7), w⟩ = .ok (.rdChLastEdgeUs c) ∧
    decode n ⟨0x226C#16 ||| (c.setWidth 16 <<< 7), w⟩ = .ok (.rdChCmd c) ∧
    decode n ⟨0x2270#16 ||| (c.setWidth 16 <<< 7), w⟩ = .ok (.rdChOut c) ∧
    decode n ⟨0x2274#16 ||| (c.setWidth 16 <<< 7), w⟩ = .ok (.rdChTTrans c) ∧
    decode n ⟨0x2278#16 ||| (c.setWidth 16 <<< 7), w⟩ = .ok (.rdChKickEnd c) ∧
    decode n ⟨0x227C#16 ||| (c.setWidth 16 <<< 7), w⟩ = .ok (.rdChInvSince c)) ∧
  ∀ (s : State) (c : ChanIx) (ch : Channel), s.chans[c.toNat]? = some ch →
    exec (.rdChLastTick c) s = .next (readOk ch.ctl.lastTick.toNat s) ∧
    exec (.rdChCount c) s = .next (readOk ch.pulse.count.toNat s) ∧
    exec (.rdChBase c) s = .next (readOk ch.est.base.toNat s) ∧
    exec (.rdChRpm c) s = .next (readOk ch.est.rpm.toNat s) ∧
    exec (.rdChDelta c) s = .next (readOk ch.est.delta.toNat s) ∧
    exec (.rdChWinEnd c) s = .next (readOk ch.est.winEnd.toNat s) ∧
    exec (.rdChLastPulseMs c) s = .next (readOk ch.pulse.lastPulseMs.toNat s) ∧
    exec (.rdChLastEdgeUs c) s = .next (readOk ch.pulse.lastEdgeUs.toNat s) ∧
    exec (.rdChCmd c) s = .next (readOk (ch.ctl.filt.toNat * 65536 + ch.ctl.raw.toNat) s) ∧
    exec (.rdChOut c) s = .next (readOk ((if ch.ctl.failsafe then 268435456 else 0) + (if ch.ctl.inv then 134217728 else 0) +
      (if ch.ctl.kick then 67108864 else 0) + (if ch.ctl.latch = .on then 33554432 else 0) +
      (if ch.ctl.active then 16777216 else 0) + ch.ctl.out.toNat * 65536 + ch.ctl.outq.toNat) s) ∧
    exec (.rdChTTrans c) s = .next (readOk ch.ctl.tTrans.toNat s) ∧
    exec (.rdChKickEnd c) s = .next (readOk ch.ctl.kickEnd.toNat s) ∧
    exec (.rdChInvSince c) s = .next (readOk ch.ctl.invSince.toNat s)

/-- For every channel that exists and every operand, the write of each of the thirteen status registers completes with
response ERR, records RO_WRITE at its offset, and changes nothing but ERR. [60_exceptions.md R306; 45_bus_channel.md
section 2; 42_fan_controller.md R171] -/
def Obligations.StatusRegistersRejectWrites : Prop :=
  ∀ (s : State) (c : ChanIx) (v : Word), c.toNat < s.nch →
    exec (.wrChLastTick c v) s = .next (erred .roWrite (BitVec.ofNat 12 (0x24C + 0x80 * c.toNat)) true s) ∧
    exec (.wrChCount c v) s = .next (erred .roWrite (BitVec.ofNat 12 (0x250 + 0x80 * c.toNat)) true s) ∧
    exec (.wrChBase c v) s = .next (erred .roWrite (BitVec.ofNat 12 (0x254 + 0x80 * c.toNat)) true s) ∧
    exec (.wrChRpm c v) s = .next (erred .roWrite (BitVec.ofNat 12 (0x258 + 0x80 * c.toNat)) true s) ∧
    exec (.wrChDelta c v) s = .next (erred .roWrite (BitVec.ofNat 12 (0x25C + 0x80 * c.toNat)) true s) ∧
    exec (.wrChWinEnd c v) s = .next (erred .roWrite (BitVec.ofNat 12 (0x260 + 0x80 * c.toNat)) true s) ∧
    exec (.wrChLastPulseMs c v) s = .next (erred .roWrite (BitVec.ofNat 12 (0x264 + 0x80 * c.toNat)) true s) ∧
    exec (.wrChLastEdgeUs c v) s = .next (erred .roWrite (BitVec.ofNat 12 (0x268 + 0x80 * c.toNat)) true s) ∧
    exec (.wrChCmd c v) s = .next (erred .roWrite (BitVec.ofNat 12 (0x26C + 0x80 * c.toNat)) true s) ∧
    exec (.wrChOut c v) s = .next (erred .roWrite (BitVec.ofNat 12 (0x270 + 0x80 * c.toNat)) true s) ∧
    exec (.wrChTTrans c v) s = .next (erred .roWrite (BitVec.ofNat 12 (0x274 + 0x80 * c.toNat)) true s) ∧
    exec (.wrChKickEnd c v) s = .next (erred .roWrite (BitVec.ofNat 12 (0x278 + 0x80 * c.toNat)) true s) ∧
    exec (.wrChInvSince c v) s = .next (erred .roWrite (BitVec.ofNat 12 (0x27C + 0x80 * c.toNat)) true s)

/-- In every state, in both directions and for every field value, the unmapped row records UNMAPPED at its word
offset, the misaligned row MISALIGN and the bad-size row SIZE, with response ERR and RDATA 0 for a read, and nothing
else changes. [60_exceptions.md R303; 60_exceptions.md R304; 60_exceptions.md R305; 60_exceptions.md R300] For a field
value that no word of the row has, raising the row's own error is the model's choice (log 13). -/
def Obligations.ErrorClassRowsRaiseTheirError : Prop :=
  ∀ (s : State) (v : Word) (a : BitVec 10) (b : Offset) (sz : BitVec 2),
    exec (.unmapped .rd a) s = .next (erred .unmapped (BitVec.ofNat 12 (4 * a.toNat)) false s) ∧
    exec (.unmapped (.wr v) a) s = .next (erred .unmapped (BitVec.ofNat 12 (4 * a.toNat)) true s) ∧
    exec (.misaligned .rd b) s = .next (erred .misalign b false s) ∧
    exec (.misaligned (.wr v) b) s = .next (erred .misalign b true s) ∧
    exec (.badSize .rd sz b) s = .next (erred .size b false s) ∧
    exec (.badSize (.wr v) sz b) s = .next (erred .size b true s)

/-- For every word of a read or write in a block of at most four channels: SIZE if SZ is not 0b10, else MISALIGN if
the offset is not a multiple of 4, else UNMAPPED where no register stands (absent channels included), else RO_WRITE
for a write of a read-only register; the error is recorded and nothing else changes; an access to which none applies
responds OK. [R302; R303; R304; R305; R306] -/
def Obligations.BusErrorsFollowTheirPriority : Prop :=
  ∀ (s : State) (p : Presented) (rest : List Presented) (sz a : Nat) (wr : Bool), s.nch ≤ 4 → s.pending = p :: rest →
    p.word.toNat < 0x8000 → sz = p.word.toNat / 0x1000 % 4 → a = p.word.toNat % 0x1000 →
    wr = decide (0x4000 ≤ p.word.toNat) →
    if sz ≠ 2 then step s = .next (erred .size (BitVec.ofNat 12 a) wr { s with pending := rest })
    else if a % 4 ≠ 0 then step s = .next (erred .misalign (BitVec.ofNat 12 a) wr { s with pending := rest })
    else if ¬ registerAt s.nch (BitVec.ofNat 12 a) then
      step s = .next (erred .unmapped (BitVec.ofNat 12 a) wr { s with pending := rest })
    else if wr = true ∧ readOnlyAt (BitVec.ofNat 12 a) then
      step s = .next (erred .roWrite (BitVec.ofNat 12 a) wr { s with pending := rest })
    else ∃ t, step s = .next t ∧ t.port.map (fun r => r.status) = some .ok

/-- For every well-formed operation that is a word-sized aligned access into the window of a channel c >= NCH, the
read of each of its registers and the write of each, read-only ones included, record UNMAPPED and change nothing else.
[10_state.md R31; 60_exceptions.md R302; 60_exceptions.md R305; 30_encoding.md R93] -/
def Obligations.AbsentChannelsAreUnmapped : Prop :=
  ∀ (s : State) (i : Instr) (c : ChanIx) (rel : BitVec 5) (wr : Bool), wellFormed s.nch i = true → s.nch ≤ c.toNat →
    (encode i).word.toNat = (if wr then 0x6200 else 0x2200) + 0x80 * c.toNat + 4 * rel.toNat →
    exec i s = .next (erred .unmapped (BitVec.ofNat 12 (0x200 + 0x80 * c.toNat + 4 * rel.toNat)) wr s)

/-- For every well-formed bus operation, the operation equals the envelope: BusCheck on its size and offset, the
recorded error, or MemRead or MemWrite of the register map and response OK. [R220] -/
def Obligations.EveryAccessIsTheEnvelope : Prop :=
  ∀ (s : State) (i : Instr), wellFormed s.nch i = true → agentOf i = .host →
    exec i s =
      .next (busAccess (accessOf (encode i)) (opSize (encode i).word) (opOffset (encode i).word) s)

/-- Once an error is recorded, no operation but WR ERR and RESET changes its code, offset or direction or clears OVF,
and an access that answers ERR sets OVF; while none is recorded, an access that answers ERR records a code, its offset
and its direction, with OVF 0, and nothing else changes ERR. [60_exceptions.md R301; 10_state.md R26] -/
def Obligations.FirstErrorIsKept : Prop :=
  ∀ (i : Instr) (s t : State), exec i s = .next t → i ≠ .reset → (∀ v, i ≠ .wrErr v) →
    (s.err.code ≠ none → t.err.code = s.err.code ∧ t.err.offset = s.err.offset ∧ t.err.wr = s.err.wr ∧
      (s.err.ovf = true → t.err.ovf = true) ∧ (t.err ≠ s.err → t.err.ovf = true)) ∧
    (s.err.code = none → t.err ≠ s.err → t.err.code ≠ none ∧ t.err.ovf = false) ∧
    (agentOf i = .host → t.port.map (fun r => r.status) = some .err →
      (s.err.code ≠ none → t.err = { s.err with ovf := true }) ∧
      (s.err.code = none → ∃ e : BusErr,
        t.err = ⟨some e, opOffset (encode i).word, decide (opKind (encode i).word = 1#2), false⟩)) ∧
    (t.err ≠ s.err → agentOf i = .host ∧ t.port.map (fun r => r.status) = some .err)

/-- A read that succeeds changes nothing but the port, and read again at once returns the same; one that errs changes
nothing but ERR and the port and returns RDATA 0. [20_memory.md R75; 20_memory.md R76; 60_exceptions.md R300] -/
def Obligations.ReadsHaveNoSideEffect : Prop :=
  ∀ (i : Instr) (s t : State), opKind (encode i).word = 0#2 → exec i s = .next t →
    (∃ v, t = { s with port := some ⟨.ok, some v⟩ } ∧ exec i t = .next t) ∨
    t = { s with err := t.err, port := some ⟨.err, some 0#32⟩ }

/-- On a channel that exists, EDGE (word 0x8000 | c) completes: while the block runs and the time since the last
accepted edge, modulo 2^32, exceeds DEBOUNCE_US, the count grows by 1 modulo 2^32 and both stamps are taken; else
nothing changes. Nothing else ever changes. [R120; R122] -/
def Obligations.EdgeFollowsTheDebounceTest : Prop :=
  (∀ n w (c : ChanIx), c.toNat < n → decode n ⟨0x8000#16 ||| c.setWidth 16, w⟩ = .ok (.edge c)) ∧
  ∀ (s : State) (c : ChanIx) (ch : Channel), s.chans[c.toNat]? = some ch →
    exec (.edge c) s =
      .next (if s.en = true ∧
          ch.cfg.debounceUs.toNat < (s.nowUs.toNat + 4294967296 - ch.pulse.lastEdgeUs.toNat) % 4294967296 then
        { s with
          chans := s.chans.set c.toNat
            { ch with pulse := ⟨BitVec.ofNat 32 ((ch.pulse.count.toNat + 1) % 4294967296), s.nowUs, s.nowMs⟩ } }
      else s)

/-- Whatever an EDGE did, the same EDGE again, with no TICK_US between, completes and changes nothing.
[40_pulse_counter.md R129; 40_pulse_counter.md R121] -/
def Obligations.SecondEdgeInAMicrosecondIsRejected : Prop :=
  ∀ (c : ChanIx) (s t : State), exec (.edge c) s = .next t → exec (.edge c) t = .next t

/-- In either order, edges on two different channels that exist complete and leave the same state. [60_exceptions.md
R309; 40_pulse_counter.md R127] -/
def Obligations.EdgesOfDifferentChannelsCommute : Prop :=
  ∀ (c d : ChanIx) (s : State), c ≠ d → c.toNat < s.nch → d.toNat < s.nch →
    ∃ t₁ t₂ u, exec (.edge c) s = .next t₁ ∧ exec (.edge d) t₁ = .next u ∧ exec (.edge d) s = .next t₂ ∧
      exec (.edge c) t₂ = .next u

/-- TICK_US (word 0xC000) completes in every state. With PRESC other than 999 only NOW_US and PRESC grow by 1; with
PRESC at 999 and the block stopped, PRESC returns to 0 and both counters grow, and nothing else changes; with PRESC at
999 and the block running, they move in the same way, and besides them nothing but the channels changes.
[43_timebase.md R200; 43_timebase.md R201] -/
def Obligations.TickCountsTheTimebase : Prop :=
  (∀ n w, decode n ⟨0xC000#16, w⟩ = .ok .tickUs) ∧
  ∀ s : State,
    (s.presc.toNat ≠ 999 → exec .tickUs s = .next { s with nowUs := s.nowUs + 1#32, presc := s.presc + 1#10 }) ∧
    (s.presc.toNat = 999 → s.en = false → exec .tickUs s =
      .next { s with nowUs := s.nowUs + 1#32, presc := 0#10, nowMs := s.nowMs + 1#32 }) ∧
    (s.presc.toNat = 999 → s.en = true → ∃ chs : List Channel, chs.length = s.nch ∧ exec .tickUs s =
      .next { s with nowUs := s.nowUs + 1#32, presc := 0#10, nowMs := s.nowMs + 1#32, chans := chs })

/-- While the block runs, the TICK_US that completes a millisecond moves the counters and then runs WindowStep and
TickCheck of every channel once, one channel after the other; the ascending order of the spec and every other order of
the channels give the same state, and so do TickCheck and WindowStep of a channel in the other order. While the block
is stopped, only the counters move. [R201] -/
def Obligations.MsEventIsTheLoopInAnyOrder : Prop :=
  ∀ (s : State) (order : List Nat), msEventDue s → order.Perm (List.range s.nch) →
    exec .tickUs s = .next (order.foldl
      (fun r c => { r with chans := r.chans.modify c (fun ch => tickCheck r.nowMs r.temp (windowStep r.nowMs ch)) })
      { s with nowUs := s.nowUs + 1#32, presc := 0#10, nowMs := s.nowMs + 1#32 }) ∧
    (∀ t : State, t.en = false → t.presc.toNat = 999 → exec .tickUs t =
      .next { t with nowUs := t.nowUs + 1#32, presc := 0#10, nowMs := t.nowMs + 1#32 }) ∧
    ∀ (now : Word) (temp : Temp) (ch : Channel),
      windowStep now (tickCheck now temp ch) = tickCheck now temp (windowStep now ch)

/-- Along every run of operations from reset that holds no RESET, for every NCH, with n TICK_US in it however
interleaved: PRESC = n mod 1000, NOW_MS = n div 1000 and NOW_US = n, the last two modulo 2^32. [R204] -/
def Obligations.CountersCountTheTicks : Prop :=
  ∀ (nch : Nat) (ops : List Instr) (t : State), .reset ∉ ops → runOps ops (State.resetWith nch) = some t →
    t.presc.toNat = tickCount ops % 1000 ∧ t.nowMs.toNat = tickCount ops / 1000 % 4294967296 ∧
      t.nowUs.toNat = tickCount ops % 4294967296

/-- From a stopped block, an EDGE on an input that exists changes nothing and a TICK_US changes nothing but NOW_US,
NOW_MS and PRESC, and every PWM output is 0. [40_pulse_counter.md R123; 44_bus_global.md R225; 60_exceptions.md R318;
10_state.md R66] -/
def Obligations.StoppedBlockOnlyCountsTime : Prop :=
  ∀ s : State, s.en = false →
    (∀ c : ChanIx, c.toNat < s.nch → exec (.edge c) s = .next s) ∧
    (∃ t, exec .tickUs s = .next t ∧ t = { s with nowUs := t.nowUs, nowMs := t.nowMs, presc := t.presc }) ∧
    ∀ c : ChanIx, pwmDuty s c = 0#7

/-- When a window of a channel ends, the TICK_US completes with DELTA = COUNT - BASE modulo 2^32, BASE = COUNT and
WIN_END = now, and the pulse accumulator and the configuration unchanged; on a TICK_US that ends no window of the
channel its estimate is unchanged. [R141; R145] -/
def Obligations.WindowTakesTheDelta : Prop :=
  ∀ (s : State) (c : ChanIx), c.toNat < s.nch →
    ∃ t, exec .tickUs s = .next t ∧ (chanAt t c).pulse = (chanAt s c).pulse ∧ (chanAt t c).cfg = (chanAt s c).cfg ∧
      (windowEnds s c →
        (chanAt t c).est.delta.toNat =
          ((chanAt s c).pulse.count.toNat + 4294967296 - (chanAt s c).est.base.toNat) % 4294967296 ∧
        (chanAt t c).est.base = (chanAt s c).pulse.count ∧ (chanAt t c).est.winEnd = s.nowMs + 1#32) ∧
      (¬ windowEnds s c → (chanAt t c).est = (chanAt s c).est) ∧
      (∀ (i : Instr) (r : State), i ≠ .tickUs → restarts i s = false → exec i s = .next r →
        (chanAt r c).est = (chanAt s c).est)

/-- When a window ends with a nonzero delta d in a channel with legal WINDOW_MS and PPR, RPM is the smaller of 2^31 -
1 and the integer q with (2q - 1)*W*P <= 2*d*60000 < (2q + 1)*W*P; it may be 0. [R142] -/
def Obligations.WindowRpmIsTheNearestInteger : Prop :=
  ∀ (s : State) (c : ChanIx) (d w p : Nat), windowEnds s c → (chanAt s c).cfg.Legal →
    d = (chanAt s c).pulse.count.toNat + 4294967296 - (chanAt s c).est.base.toNat → d % 4294967296 ≠ 0 →
    w = (chanAt s c).cfg.windowMs.toNat → p = (chanAt s c).cfg.ppr.toNat →
    ∃ t q, exec .tickUs s = .next t ∧ (chanAt t c).est.rpm.toNat = min q 2147483647 ∧
      2 * q * (w * p) ≤ 2 * (d % 4294967296) * 60000 + w * p ∧
      2 * (d % 4294967296) * 60000 < (2 * q + 1) * (w * p)

/-- When a window ends with COUNT = BASE, RPM becomes 0 if the time since the last pulse exceeds TIMEOUT_MS, strictly,
and else keeps its value. [R143] -/
def Obligations.ZeroDeltaWindowRetainsOrStops : Prop :=
  ∀ (s : State) (c : ChanIx), windowEnds s c → (chanAt s c).pulse.count = (chanAt s c).est.base →
    ∃ t, exec .tickUs s = .next t ∧ (chanAt t c).est.rpm =
      if (chanAt s c).cfg.timeoutMs.toNat < (s.nowMs + 1#32 - (chanAt s c).pulse.lastPulseMs).toNat then 0#32
      else (chanAt s c).est.rpm

/-- Only RESET and a start make RPM unknown: any other operation that leaves RPM at 0xFFFFFFFF found it there.
[41_tach_estimator.md R144] -/
def Obligations.NoWindowMakesRpmUnknown : Prop :=
  ∀ (i : Instr) (s t : State) (c : ChanIx), exec i s = .next t → restarts i s = false → c.toNat < s.nch →
    (chanAt t c).est.rpm = 0xFFFFFFFF#32 → (chanAt s c).est.rpm = 0xFFFFFFFF#32

/-- Along every run of operations with no RESET and no start: COUNT grows by the number of accepted edges, BASE by the
sum of the windows' deltas, and COUNT - BASE is the number of edges accepted since the last window, all modulo 2^32.
[R146] -/
def Obligations.EveryAcceptedEdgeIsInOneDelta : Prop :=
  ∀ (c : ChanIx) (ops : List Instr) (s t : State) (n : Tally), c.toNat < s.nch → runKeeps ops s = true →
    runOps ops s = some t →
    n = tallyOf c ops s ⟨0#32, 0#32, (chanAt s c).pulse.count - (chanAt s c).est.base⟩ →
    (chanAt t c).pulse.count = (chanAt s c).pulse.count + n.accepted ∧
      (chanAt t c).est.base = (chanAt s c).est.base + n.deltas ∧
      (chanAt t c).pulse.count - (chanAt t c).est.base = n.sinceWindow

/-- On a TICK_US at which the channel's tick is due, LAST_TICK becomes now; on any other TICK_US the channel's
controller state is unchanged. [43_timebase.md R202; 42_fan_controller.md R171] -/
def Obligations.TicksRunWhenThePeriodHasPassed : Prop :=
  ∀ (s : State) (c : ChanIx), c.toNat < s.nch →
    ∃ t, exec .tickUs s = .next t ∧ (tickRuns s c → (chanAt t c).ctl.lastTick = s.nowMs + 1#32) ∧
      (¬ tickRuns s c → (chanAt t c).ctl = (chanAt s c).ctl)

/-- At a tick with TEMP valid: RAW is Y_0 at or below X_0, Y_4 at or above X_4, and else the duty on the first segment
whose right end is above T, linear and rounded to nearest with ties away from zero, between the segment's two duties;
INV and FAILSAFE become 0 and INV_SINCE is kept. [R161] -/
def Obligations.ValidTemperatureSetsTheCurveDuty : Prop :=
  ∀ (s : State) (c : ChanIx) (k : ChanConfig) (x : Int), tickRuns s c → s.temp.valid = true →
    k = (chanAt s c).cfg → x = s.temp.t.toInt →
    ∃ t, exec .tickUs s = .next t ∧ (chanAt t c).ctl.inv = false ∧ (chanAt t c).ctl.failsafe = false ∧
      (chanAt t c).ctl.invSince = (chanAt s c).ctl.invSince ∧
      if x ≤ k.curve0.x.toInt then (chanAt t c).ctl.raw = k.curve0.y
      else if k.curve4.x.toInt ≤ x then (chanAt t c).ctl.raw = k.curve4.y
      else if x < k.curve1.x.toInt then onSegment k.curve0 k.curve1 x (chanAt t c).ctl.raw.toNat
      else if x < k.curve2.x.toInt then onSegment k.curve1 k.curve2 x (chanAt t c).ctl.raw.toNat
      else if x < k.curve3.x.toInt then onSegment k.curve2 k.curve3 x (chanAt t c).ctl.raw.toNat
      else onSegment k.curve3 k.curve4 x (chanAt t c).ctl.raw.toNat

/-- At a tick with TEMP invalid: INV becomes 1, INV_SINCE is taken at the first such tick, and if the time since
INV_SINCE exceeds HOLD_MS, strictly, RAW becomes SAFE_DUTY and FAILSAFE 1; else both are kept. [42_fan_controller.md
R162] -/
def Obligations.InvalidTemperatureHoldsThenFallsBack : Prop :=
  ∀ (s : State) (c : ChanIx) (k : ChanConfig) (u : CtlState) (since : Word), tickRuns s c → s.temp.valid = false →
    k = (chanAt s c).cfg → u = (chanAt s c).ctl → since = (if u.inv then u.invSince else s.nowMs + 1#32) →
    ∃ t, exec .tickUs s = .next t ∧ (chanAt t c).ctl.inv = true ∧ (chanAt t c).ctl.invSince = since ∧
      if k.holdMs.toNat < (s.nowMs + 1#32 - since).toNat then
        (chanAt t c).ctl.raw = k.safeDuty ∧ (chanAt t c).ctl.failsafe = true
      else (chanAt t c).ctl.raw = u.raw ∧ (chanAt t c).ctl.failsafe = u.failsafe

/-- At every tick of a channel with ALPHA at most 1.0, with dt the true elapsed time: let m be the smaller of |RAW -
FILT| and (RATE*dt) div 1000. FILT moves toward RAW by m*ALPHA/65536 rounded up, whatever LATCH is; so it never moves
more than the rate limit and never past RAW. [R163; R164] -/
def Obligations.FilterMovesTowardRaw : Prop :=
  ∀ (s : State) (c : ChanIx) (k : ChanConfig) (u : CtlState) (lim : Nat), tickRuns s c → k = (chanAt s c).cfg →
    u = (chanAt s c).ctl → k.alpha.toNat ≤ 65536 → lim = k.rate.toNat * tickDt s c / 1000 →
    ∃ t, exec .tickUs s = .next t ∧
      (if u.filt.toNat ≤ (chanAt t c).ctl.raw.toNat then
        (chanAt t c).ctl.filt.toNat = u.filt.toNat +
          (min ((chanAt t c).ctl.raw.toNat - u.filt.toNat) lim * k.alpha.toNat + 65535) / 65536 ∧
        (chanAt t c).ctl.filt.toNat ≤ (chanAt t c).ctl.raw.toNat
      else
        (chanAt t c).ctl.filt.toNat + (min (u.filt.toNat - (chanAt t c).ctl.raw.toNat) lim * k.alpha.toNat + 65535) / 65536
          = u.filt.toNat ∧
        (chanAt t c).ctl.raw.toNat ≤ (chanAt t c).ctl.filt.toNat) ∧
      ((chanAt t c).ctl.filt.toNat : Int) - u.filt.toNat ≤ lim ∧
      (u.filt.toNat : Int) - (chanAt t c).ctl.filt.toNat ≤ lim

/-- With ALPHA from 1 to 65536 and a rate that moves at least 1 unit at every tick, FILT equals RAW after 25600 filter
steps, whatever the elapsed times, and stays there. [42_fan_controller.md R170; 42_fan_controller.md R164] -/
def Obligations.FilterReachesItsTarget : Prop :=
  ∀ (k : ChanConfig) (u : CtlState) (dts : List Word), 1 ≤ k.alpha.toNat → k.alpha.toNat ≤ 65536 →
    u.raw.toNat ≤ 25600 → u.filt.toNat ≤ 25600 → (∀ dt ∈ dts, 1000 ≤ k.rate.toNat * dt.toNat) → 25600 ≤ dts.length →
    (dts.foldl (fun v dt => filterStep k dt v) u).filt = u.raw

/-- At every tick, with RAW and FAILSAFE as that tick left them: from OFF the latch goes ON exactly in the fail-safe
or once MIN_OFF_MS has elapsed and RAW >= ON_ABOVE, taking T_TRANS = now and KICK_END = now + KICK_MS; from ON it goes
OFF exactly when not in the fail-safe, once MIN_ON_MS has elapsed and RAW < OFF_BELOW, taking T_TRANS = now and
clearing KICK; else both stamps are kept. [R165] -/
def Obligations.LatchFollowsDwellAndThresholds : Prop :=
  ∀ (s : State) (c : ChanIx) (k : ChanConfig) (u : CtlState) (now : Word), tickRuns s c → k = (chanAt s c).cfg →
    u = (chanAt s c).ctl → now = s.nowMs + 1#32 →
    ∃ t, exec .tickUs s = .next t ∧
      (u.latch = .off →
        if (chanAt t c).ctl.failsafe = true ∨
            (k.minOffMs.toNat ≤ (now - u.tTrans).toNat ∧ k.onAbove.toNat ≤ (chanAt t c).ctl.raw.toNat) then
          (chanAt t c).ctl.latch = .on ∧ (chanAt t c).ctl.tTrans = now ∧
            (chanAt t c).ctl.kickEnd = now + BitVec.ofNat 32 k.kickMs.toNat
        else
          (chanAt t c).ctl.latch = .off ∧ (chanAt t c).ctl.tTrans = u.tTrans ∧ (chanAt t c).ctl.kickEnd = u.kickEnd) ∧
      (u.latch = .on →
        (chanAt t c).ctl.kickEnd = u.kickEnd ∧
        if (chanAt t c).ctl.failsafe = false ∧ k.minOnMs.toNat ≤ (now - u.tTrans).toNat ∧
            (chanAt t c).ctl.raw.toNat < k.offBelow.toNat then
          (chanAt t c).ctl.latch = .off ∧ (chanAt t c).ctl.tTrans = now ∧ (chanAt t c).ctl.kick = false
        else (chanAt t c).ctl.latch = .on ∧ (chanAt t c).ctl.tTrans = u.tTrans)

/-- At every tick, with LATCH, FILT and KICK_END as that tick left them: in OFF OUTQ is 0; in ON, a kick that was
armed before or at this tick is in force while now is before KICK_END, then OUTQ is KICK_DUTY and KICK 1, else OUTQ is
the larger of FILT and OFF_BELOW and KICK 0; OUTQ is clamped to 25600, OUT is (OUTQ + 128) div 256, and ACTIVE is OUTQ
> ACT_EPS. A kick armed at this tick is in force exactly when KICK_MS >= 1. [R166; R167; R168] -/
def Obligations.OutputFollowsLatchAndKick : Prop :=
  ∀ (s : State) (c : ChanIx) (k : ChanConfig) (u : CtlState), tickRuns s c → k = (chanAt s c).cfg →
    u = (chanAt s c).ctl →
    ∃ t, exec .tickUs s = .next t ∧
      ((chanAt t c).ctl.latch = .off → (chanAt t c).ctl.outq = 0#16) ∧
      ((chanAt t c).ctl.latch = .on →
        if (u.latch = .off ∨ u.kick = true) ∧ 0 < ((chanAt t c).ctl.kickEnd - (s.nowMs + 1#32)).toInt then
          (chanAt t c).ctl.kick = true ∧ (chanAt t c).ctl.outq.toNat = min k.kickDuty.toNat 25600
        else
          (chanAt t c).ctl.kick = false ∧
            (chanAt t c).ctl.outq.toNat = min (max (chanAt t c).ctl.filt.toNat k.offBelow.toNat) 25600) ∧
      (u.latch = .off → (chanAt t c).ctl.latch = .on →
        (chanAt t c).ctl.kickEnd = s.nowMs + 1#32 + BitVec.ofNat 32 k.kickMs.toNat ∧
        ((chanAt t c).ctl.kick = true ↔ 1 ≤ k.kickMs.toNat)) ∧
      (chanAt t c).ctl.out.toNat = ((chanAt t c).ctl.outq.toNat + 128) / 256 ∧
      ((chanAt t c).ctl.active = true ↔ k.actEps.toNat < (chanAt t c).ctl.outq.toNat)

/-- From a legal state with LATCH ON and KICK_DUTY >= OFF_BELOW in a channel, every tick that leaves it ON leaves OUTQ
>= OFF_BELOW, and a tick that turns it OFF has MIN_ON_MS elapsed, RAW < OFF_BELOW and FAILSAFE 0.
[42_fan_controller.md R170; 90_conflicts.md C10] -/
def Obligations.LatchedOutputKeepsTheFloor : Prop :=
  ∀ (s : State) (c : ChanIx) (k : ChanConfig) (u : CtlState), s.Legal → tickRuns s c → k = (chanAt s c).cfg →
    u = (chanAt s c).ctl → u.latch = .on → k.offBelow.toNat ≤ k.kickDuty.toNat →
    ∃ t, exec .tickUs s = .next t ∧
      ((chanAt t c).ctl.latch = .on → k.offBelow.toNat ≤ (chanAt t c).ctl.outq.toNat) ∧
      ((chanAt t c).ctl.latch = .off →
        k.minOnMs.toNat ≤ (s.nowMs + 1#32 - u.tTrans).toNat ∧ (chanAt t c).ctl.raw.toNat < k.offBelow.toNat ∧
        (chanAt t c).ctl.failsafe = false)

/-- For every channel of a legal state the PWM output is at most 100, equals OUT while EN = 1, and is 0 while EN = 0.
[10_state.md R66] -/
def Obligations.PwmIsAnIntegerPercent : Prop :=
  ∀ (s : State) (c : ChanIx) (ch : Channel), s.Legal → s.chans[c.toNat]? = some ch →
    (pwmDuty s c).toNat ≤ 100 ∧ (s.en = true → pwmDuty s c = ch.ctl.out) ∧ (s.en = false → pwmDuty s c = 0#7)

/-- For every operation that is neither RESET nor a start: a changed pulse accumulator of channel c means EDGE on c, a
changed estimate, controller state or timebase means TICK_US, a changed configuration, TEMP or EN means a bus write,
and a changed ERR or bus port a bus access; that the port keeps its response otherwise is the model's choice (log 4).
[40_pulse_counter.md R127; 41_tach_estimator.md R145; 42_fan_controller.md R171; 60_exceptions.md R316; 10_state.md
R63] The clause on t.port rests on log 4: that EDGE and TICK_US keep the port is the model's choice. -/
def Obligations.OnlyTheOwnerWritesEachPart : Prop :=
  ∀ (i : Instr) (s t : State) (c : ChanIx), exec i s = .next t → restarts i s = false → c.toNat < s.nch →
    ((chanAt t c).pulse ≠ (chanAt s c).pulse → agentOf i = .edge c) ∧
    ((chanAt t c).est ≠ (chanAt s c).est ∨ (chanAt t c).ctl ≠ (chanAt s c).ctl ∨ t.nowUs ≠ s.nowUs ∨
      t.nowMs ≠ s.nowMs ∨ t.presc ≠ s.presc → agentOf i = .timebase) ∧
    ((chanAt t c).cfg ≠ (chanAt s c).cfg ∨ t.temp ≠ s.temp ∨ t.en ≠ s.en →
      agentOf i = .host ∧ opKind (encode i).word = 1#2) ∧
    (t.err ≠ s.err ∨ t.port ≠ s.port → agentOf i = .host)

/-- Two states that agree on EN, the timebase, TEMP, NCH and channel c, whatever their other channels hold, still
agree on channel c after the same operation. [10_state.md R31; 42_fan_controller.md R169; 60_exceptions.md R308] -/
def Obligations.ChannelsAreIndependent : Prop :=
  ∀ (i : Instr) (s₁ s₂ t₁ t₂ : State) (c : ChanIx), s₁.en = s₂.en → s₁.nowMs = s₂.nowMs → s₁.nowUs = s₂.nowUs →
    s₁.presc = s₂.presc → s₁.temp = s₂.temp → s₁.nch = s₂.nch → chanAt s₁ c = chanAt s₂ c →
    exec i s₁ = .next t₁ → exec i s₂ = .next t₂ → chanAt t₁ c = chanAt t₂ c

/-- Two states that agree on everything but the pulse accumulators and estimates of their channels command the same
duty and hold the same controller state and configuration after the same operation: RPM is telemetry only.
[00_scope.md R8; 41_tach_estimator.md R148; 42_fan_controller.md R171] -/
def Obligations.RpmNeverFeedsTheController : Prop :=
  ∀ (i : Instr) (s₁ s₂ t₁ t₂ : State) (c : ChanIx), s₁.en = s₂.en → s₁.nowMs = s₂.nowMs → s₁.nowUs = s₂.nowUs →
    s₁.presc = s₂.presc → s₁.temp = s₂.temp → s₁.nch = s₂.nch → (chanAt s₁ c).cfg = (chanAt s₂ c).cfg →
    (chanAt s₁ c).ctl = (chanAt s₂ c).ctl → exec i s₁ = .next t₁ → exec i s₂ = .next t₂ →
    (chanAt t₁ c).cfg = (chanAt t₂ c).cfg ∧ (chanAt t₁ c).ctl = (chanAt t₂ c).ctl ∧ pwmDuty t₁ c = pwmDuty t₂ c

/-- For every word, lane k is the word divided by 2^(8k), modulo 256, and the four lanes put together give the word
back. [20_memory.md R73] -/
def Obligations.ByteLanesAreLittleEndian : Prop :=
  ∀ v : Word, (∀ k : Fin 4, (byteLane v k).toNat = v.toNat / 2 ^ (8 * k.val) % 256) ∧
    wordOfLanes (byteLane v 0) (byteLane v 1) (byteLane v 2) (byteLane v 3) = v

/-- For every operation, the characters of the line that the printer writes, read by the assembler as one line of
text, give exactly the encoded operation. [30_encoding.md R100] How the printer spells a value and a raw offset, and
what the reader accepts beyond the forms of R100, is the model's choice (log 12). -/
def Obligations.PrintedTextAssemblesBack : Prop :=
  ∀ i : Instr, assembleLine (render (printLine i)).toList = some [encode i]
end

