-- ==== Sys2Proof/Laws/Packing.lean ====
section
/-! SUPPORT. The values of Machine/Operands.lean as numbers: concatenation, legalisation, rounding, and every packed register
word as the sum of its fields (00_scope.md R14; 10_state.md R23 to R62, R32). -/

namespace Sys2Proof.Machine

/-! ### Concatenation and bits -/

/-- A concatenation is its high part, shifted, plus its low part (R13). -/
theorem append_toNat {n m : Nat} (x : BitVec n) (y : BitVec m) : (x ++ y).toNat = x.toNat * 2 ^ m + y.toNat := by
  rw [BitVec.toNat_append, ← Nat.shiftLeft_add_eq_or_of_lt y.isLt, Nat.shiftLeft_eq]

theorem ofBool_toNat (b : Bool) : (BitVec.ofBool b).toNat = if b then 1 else 0 := by
  cases b <;> rfl

theorem latchBit_toNat (l : Latch) : (latchBit l).toNat = if l = .on then 1 else 0 := by
  cases l <;> rfl

theorem low16_toNat (v : Word) : (v.extractLsb' 0 16).toNat = v.toNat % 65536 := by simp

theorem high16_toNat (v : Word) : (v.extractLsb' 16 16).toNat = v.toNat / 65536 := by
  have := v.isLt
  simp [Nat.shiftRight_eq_div_pow]
  omega

theorem bit_eq_decide (v : Word) (i : Nat) : v.getLsbD i = decide (v.toNat / 2 ^ i % 2 = 1) := by
  rw [BitVec.getLsbD, Nat.testBit_eq_decide_div_mod_eq]

/-! ### Legalisation (R32) -/

theorem min1_ne_zero {n : Nat} (hn : 0 < n) (v : BitVec n) : min1 v ≠ 0#n := by
  unfold min1
  split
  · intro h
    have := congrArg BitVec.toNat h
    simp [Nat.mod_eq_of_lt (Nat.one_lt_two_pow (by omega : n ≠ 0))] at this
  · assumption

theorem min1_toNat {n : Nat} (hn : 0 < n) (v : BitVec n) : (min1 v).toNat = max v.toNat 1 := by
  unfold min1
  split
  · subst_vars
    simp [Nat.mod_eq_of_lt (Nat.one_lt_two_pow (by omega : n ≠ 0))]
  · rename_i h
    have : v.toNat ≠ 0 := fun h0 => h (BitVec.eq_of_toNat_eq (by simpa using h0))
    omega

theorem cap_toNat {n m : Nat} (v : BitVec n) (hm : m < 2 ^ n) : (cap v m).toNat = min v.toNat m := by
  unfold cap
  split
  · omega
  · simp [Nat.mod_eq_of_lt hm]
    omega

theorem cap_le {n m : Nat} (v : BitVec n) (hm : m < 2 ^ n) : (cap v m).toNat ≤ m := by
  rw [cap_toNat v hm]
  omega

/-- A legal value is stored as it is: legalisation is idempotent (R32). -/
theorem cap_of_le {n m : Nat} {v : BitVec n} (h : v.toNat ≤ m) : cap v m = v := if_pos h

theorem min1_of_ne {n : Nat} {v : BitVec n} (h : v ≠ 0#n) : min1 v = v := if_neg h

theorem lowDuty_toNat (v : Word) : (lowDuty v).toNat = min (v.toNat % 65536) 25600 := by
  rw [lowDuty, cap_toNat _ (by decide), low16_toNat]
  rfl

theorem highDuty_toNat (v : Word) : (highDuty v).toNat = min (v.toNat / 65536) 25600 := by
  rw [highDuty, cap_toNat _ (by decide), high16_toNat]
  rfl

theorem lowDuty_le (v : Word) : (lowDuty v).toNat ≤ 25600 := cap_le _ (by decide)

theorem highDuty_le (v : Word) : (highDuty v).toNat ≤ 25600 := cap_le _ (by decide)

theorem pointOfWord_le (v : Word) : (pointOfWord v).y.toNat ≤ 25600 := highDuty_le v

/-! ### rdiv and sdiff (R14) -/

/-- rdiv of a nonnegative numerator: the nearest integer, halves up. -/
theorem rdiv_of_nonneg {n d : Int} (h : 0 ≤ n) : rdiv n d = (2 * n + d) / (2 * d) := if_pos h

/-- rdiv is odd: the nearest integer, halves down, of a negative numerator. -/
theorem rdiv_neg (n d : Int) (hd : 0 < d) : rdiv (-n) d = -rdiv n d := by
  unfold rdiv
  rcases lt_trichotomy n 0 with h | h | h
  · rw [if_pos (by omega), if_neg (by omega)]
    simp
  · subst h
    have : d / (2 * d) = 0 := Int.ediv_eq_zero_of_lt (by omega) (by omega)
    simp [this]
  · rw [if_neg (by omega), if_pos (by omega)]
    simp

/-- rdiv is within half a unit of the quotient. -/
theorem rdiv_bounds {n d : Int} (hn : 0 ≤ n) (hd : 0 < d) : 2 * n - d < 2 * d * rdiv n d ∧ 2 * d * rdiv n d ≤ 2 * n + d := by
  rw [rdiv_of_nonneg hn]
  have h1 := Int.emod_add_mul_ediv (2 * n + d) (2 * d)
  have h2 := Int.emod_nonneg (2 * n + d) (show 2 * d ≠ 0 by omega)
  have h3 := Int.emod_lt_of_pos (2 * n + d) (show 0 < 2 * d by omega)
  constructor <;> linarith

theorem rdiv_nonneg {n d : Int} (hn : 0 ≤ n) (hd : 0 < d) : 0 ≤ rdiv n d := by
  rw [rdiv_of_nonneg hn]
  exact Int.ediv_nonneg (by omega) (by omega)

/-! ### Packed registers -/

theorem errWord_toNat (e : ErrReg) :
    (errWord e).toNat = (if e.ovf then 2147483648 else 0) + (if e.wr then 1048576 else 0) + e.offset.toNat * 256 +
      (codeBits e.code).toNat := by
  simp only [errWord, append_toNat, ofBool_toNat]
  cases e.ovf <;> cases e.wr <;> simp <;> omega

theorem tempWord_toNat (p : Temp) : (tempWord p).toNat = (if p.valid then 65536 else 0) + p.t.toNat := by
  simp only [tempWord, append_toNat, ofBool_toNat]
  cases p.valid <;> simp

theorem cfgWord_toNat (s : State) : (cfgWord s).toNat = s.nch % 8 := by
  simp [cfgWord]
  omega

theorem ctrlWord_toNat (s : State) : (ctrlWord s).toNat = if s.en then 1 else 0 := by
  unfold ctrlWord
  cases s.en <;> rfl

theorem prescWord_toNat (s : State) : (prescWord s).toNat = s.presc.toNat := by
  have := s.presc.isLt
  simp [prescWord]
  omega

theorem threshWord_toNat (k : ChanConfig) : (threshWord k).toNat = k.onAbove.toNat * 65536 + k.offBelow.toNat :=
  append_toNat _ _

theorem safeWord_toNat (k : ChanConfig) : (safeWord k).toNat = k.actEps.toNat * 65536 + k.safeDuty.toNat :=
  append_toNat _ _

theorem pointWord_toNat (p : CurvePoint) : (pointWord p).toNat = p.y.toNat * 65536 + p.x.toNat := append_toNat _ _

theorem cmdWord_toNat (u : CtlState) : (cmdWord u).toNat = u.filt.toNat * 65536 + u.raw.toNat := append_toNat _ _

theorem outWord_toNat (u : CtlState) :
    (outWord u).toNat = (if u.failsafe then 268435456 else 0) + (if u.inv then 134217728 else 0) +
      (if u.kick then 67108864 else 0) + (if u.latch = .on then 33554432 else 0) +
      (if u.active then 16777216 else 0) + u.out.toNat * 65536 + u.outq.toNat := by
  simp only [outWord, append_toNat, ofBool_toNat, latchBit_toNat]
  split <;> split <;> split <;> split <;> split <;> simp <;> omega

end Sys2Proof.Machine
end

