-- ==== Sys2Proof/Laws/Channel.lean ====
section
/-! SUPPORT. What each step of the pulse counter, the estimator and the controller can do, stated once: which fields it
leaves, and the values of those it writes (40_pulse_counter.md; 41_tach_estimator.md; 42_fan_controller.md). -/

namespace Sys2Proof.Machine

/-! ### The pulse counter -/

@[simp] theorem recordEdge_cfg (nu nm : Word) (ch : Channel) : (recordEdge nu nm ch).cfg = ch.cfg := by
  unfold recordEdge
  split <;> rfl

@[simp] theorem recordEdge_est (nu nm : Word) (ch : Channel) : (recordEdge nu nm ch).est = ch.est := by
  unfold recordEdge
  split <;> rfl

@[simp] theorem recordEdge_ctl (nu nm : Word) (ch : Channel) : (recordEdge nu nm ch).ctl = ch.ctl := by
  unfold recordEdge
  split <;> rfl

theorem recordEdge_pulse (nu nm : Word) (ch : Channel) :
    (recordEdge nu nm ch).pulse =
      if edgeAccepted nu ch then ⟨ch.pulse.count + 1#32, nu, nm⟩ else ch.pulse := by
  unfold recordEdge
  split <;> rfl

/-- An edge at the stamp of the last accepted one is rejected (R129). -/
theorem edgeAccepted_self (ch : Channel) : edgeAccepted ch.pulse.lastEdgeUs ch = false := by
  simp [edgeAccepted, dist]

/-- What an accepted edge leaves. -/
theorem recordEdge_accepted {nu nm : Word} {ch : Channel} (h : edgeAccepted nu ch = true) :
    recordEdge nu nm ch = { ch with pulse := ⟨ch.pulse.count + 1#32, nu, nm⟩ } := if_pos h

/-- A rejected edge leaves the channel. -/
theorem recordEdge_rejected {nu nm : Word} {ch : Channel} (h : edgeAccepted nu ch = false) :
    recordEdge nu nm ch = ch := if_neg (by simp [h])

/-! ### The estimator -/

@[simp] theorem windowStep_cfg (now : Word) (ch : Channel) : (windowStep now ch).cfg = ch.cfg := by
  unfold windowStep takeDelta
  split <;> rfl

@[simp] theorem windowStep_pulse (now : Word) (ch : Channel) : (windowStep now ch).pulse = ch.pulse := by
  unfold windowStep takeDelta
  split <;> rfl

@[simp] theorem windowStep_ctl (now : Word) (ch : Channel) : (windowStep now ch).ctl = ch.ctl := by
  unfold windowStep takeDelta
  split <;> rfl

/-- Everything a window can do to the estimate. -/
theorem windowStep_est (now : Word) (ch : Channel) :
    (windowStep now ch).est =
      if windowDue now ch then
        { base := ch.pulse.count, rpm := windowRpm now (ch.pulse.count - ch.est.base) ch,
          delta := ch.pulse.count - ch.est.base, winEnd := now }
      else ch.est := by
  unfold windowStep takeDelta
  split <;> rfl

theorem rpmOf_le (d w p : Nat) : rpmOf d w p ≤ 2147483647 := Nat.min_le_right _ _

/-- The RPM of a window is a legal RPM if the one before it is (R53, R142). -/
theorem windowRpm_legal (now delta : Word) (ch : Channel) (h : ch.est.Legal) :
    windowRpm now delta ch = 0xFFFFFFFF#32 ∨ (windowRpm now delta ch).toNat ≤ 2147483647 := by
  unfold windowRpm
  split
  · right
    have := rpmOf_le delta.toNat ch.cfg.windowMs.toNat ch.cfg.ppr.toNat
    simp
    omega
  · split
    · right
      simp
    · exact h

/-! ### The controller: what each sub-step leaves -/

@[simp] theorem tempStep_filt (k : ChanConfig) (temp : Temp) (now : Word) (u : CtlState) :
    (tempStep k temp now u).filt = u.filt := by
  unfold tempStep markInvalid
  split
  · rfl
  · dsimp only
    split <;> split <;> rfl

@[simp] theorem tempStep_latch (k : ChanConfig) (temp : Temp) (now : Word) (u : CtlState) :
    (tempStep k temp now u).latch = u.latch := by
  unfold tempStep markInvalid
  split
  · rfl
  · dsimp only
    split <;> split <;> rfl

@[simp] theorem tempStep_kick (k : ChanConfig) (temp : Temp) (now : Word) (u : CtlState) :
    (tempStep k temp now u).kick = u.kick := by
  unfold tempStep markInvalid
  split
  · rfl
  · dsimp only
    split <;> split <;> rfl

@[simp] theorem tempStep_kickEnd (k : ChanConfig) (temp : Temp) (now : Word) (u : CtlState) :
    (tempStep k temp now u).kickEnd = u.kickEnd := by
  unfold tempStep markInvalid
  split
  · rfl
  · dsimp only
    split <;> split <;> rfl

@[simp] theorem tempStep_tTrans (k : ChanConfig) (temp : Temp) (now : Word) (u : CtlState) :
    (tempStep k temp now u).tTrans = u.tTrans := by
  unfold tempStep markInvalid
  split
  · rfl
  · dsimp only
    split <;> split <;> rfl

@[simp] theorem tempStep_lastTick (k : ChanConfig) (temp : Temp) (now : Word) (u : CtlState) :
    (tempStep k temp now u).lastTick = u.lastTick := by
  unfold tempStep markInvalid
  split
  · rfl
  · dsimp only
    split <;> split <;> rfl

/-- TempStep with a valid temperature (R162). -/
theorem tempStep_valid {k : ChanConfig} {temp : Temp} {now : Word} {u : CtlState} (h : temp.valid = true) :
    tempStep k temp now u =
      { u with raw := BitVec.ofInt 16 (curve k temp.t.toInt), inv := false, failsafe := false } := by
  simp [tempStep, h]

/-- TempStep with an invalid temperature (R162). -/
theorem tempStep_invalid {k : ChanConfig} {temp : Temp} {now : Word} {u : CtlState} (h : temp.valid = false) :
    (tempStep k temp now u).inv = true ∧
      (tempStep k temp now u).invSince = (if u.inv then u.invSince else now) ∧
      (if k.holdMs.toNat < (now - (if u.inv then u.invSince else now)).toNat then
        (tempStep k temp now u).raw = k.safeDuty ∧ (tempStep k temp now u).failsafe = true
      else (tempStep k temp now u).raw = u.raw ∧ (tempStep k temp now u).failsafe = u.failsafe) := by
  unfold tempStep markInvalid holdExpired dist
  cases hi : u.inv
  · simp only [h, Bool.false_eq_true, if_false, decide_eq_true_eq]
    split <;> simp_all
  · simp only [h, Bool.false_eq_true, if_false, if_true, decide_eq_true_eq]
    split <;> simp_all

/-! ### The curve (R161) -/

/-- On a segment that holds `t`, the value is a rounded division within the segment's two duties. -/
theorem segment_onSegment {p q : CurvePoint} {t : Int} (h1 : p.x.toInt ≤ t) (h2 : t < q.x.toInt) :
    ∃ v : Nat, segment p q t = v ∧ onSegment p q t v := by
  obtain ⟨a, ha⟩ : ∃ a : Nat, t - p.x.toInt = a := Int.eq_ofNat_of_zero_le (by omega)
  obtain ⟨d, hd⟩ : ∃ d : Nat, q.x.toInt - p.x.toInt = d := Int.eq_ofNat_of_zero_le (by omega)
  have had : a < d := by omega
  have hd0 : (0 : Int) < d := by omega
  unfold segment onSegment roundsTo
  rw [ha, hd]
  have hcap : ∀ e : Nat, rdiv ((a : Int) * e) d ≤ e := by
    intro e
    have hb := (rdiv_bounds (n := (a : Int) * e) (d := d) (by positivity) hd0).2
    have hae : (a : Int) * e ≤ d * e := by
      have : (a : Int) ≤ d := by omega
      nlinarith
    by_contra hlt
    have : (e : Int) + 1 ≤ rdiv ((a : Int) * e) d := by omega
    nlinarith
  have hpos : ∀ e : Nat, 0 ≤ rdiv ((a : Int) * e) d := fun e => rdiv_nonneg (by positivity) hd0
  have hround : ∀ e : Nat, 2 * (rdiv ((a : Int) * e) d * d - a * e).natAbs ≤ (d : Int).natAbs ∧
      (2 * (rdiv ((a : Int) * e) d * d - a * e).natAbs = (d : Int).natAbs →
        ((a : Int) * e).natAbs < (rdiv ((a : Int) * e) d * d).natAbs) := by
    intro e
    obtain ⟨hb1, hb2⟩ := rdiv_bounds (n := (a : Int) * e) (d := d) (by positivity) hd0
    have hn : 0 ≤ (a : Int) * e := by positivity
    have hv : 0 ≤ rdiv ((a : Int) * e) d * d := mul_nonneg (hpos e) (by omega)
    have hc : 2 * (d : Int) * rdiv ((a : Int) * e) d = 2 * (rdiv ((a : Int) * e) d * d) := by ring
    rw [hc] at hb1 hb2
    generalize rdiv ((a : Int) * e) d * d = v at *
    generalize (a : Int) * e = n at *
    omega
  rcases Nat.le_total p.y.toNat q.y.toNat with hy | hy
  · obtain ⟨e, he⟩ : ∃ e : Nat, (q.y.toNat : Int) - p.y.toNat = e := Int.eq_ofNat_of_zero_le (by omega)
    rw [he]
    obtain ⟨r, hr⟩ : ∃ r : Nat, rdiv ((a : Int) * e) d = r := Int.eq_ofNat_of_zero_le (hpos e)
    have := hcap e
    have hro := hround e
    rw [hr] at this hro ⊢
    refine ⟨p.y.toNat + r, by push_cast; rfl, ?_, by omega, by omega⟩
    have : ((p.y.toNat + r : Nat) : Int) - p.y.toNat = r := by push_cast; ring
    rw [this]
    exact hro
  · obtain ⟨e, he⟩ : ∃ e : Nat, (p.y.toNat : Int) - q.y.toNat = e := Int.eq_ofNat_of_zero_le (by omega)
    have he' : (q.y.toNat : Int) - p.y.toNat = -(e : Int) := by omega
    rw [he', mul_neg, rdiv_neg _ _ hd0]
    obtain ⟨r, hr⟩ : ∃ r : Nat, rdiv ((a : Int) * e) d = r := Int.eq_ofNat_of_zero_le (hpos e)
    have := hcap e
    have hro := hround e
    rw [hr] at this hro ⊢
    refine ⟨p.y.toNat - r, by omega, ?_, by omega, by omega⟩
    have : ((p.y.toNat - r : Nat) : Int) - p.y.toNat = -(r : Int) := by omega
    rw [this, neg_mul]
    have h3 : -((r : Int) * d) - -(a * e) = -((r : Int) * d - a * e) := by ring
    rw [h3, Int.natAbs_neg, Int.natAbs_neg, Int.natAbs_neg]
    exact hro

/-- Everything the curve can answer (R161). -/
theorem curve_cases (k : ChanConfig) (x : Int) :
    ∃ v : Nat, curve k x = v ∧
      if x ≤ k.curve0.x.toInt then v = k.curve0.y.toNat
      else if k.curve4.x.toInt ≤ x then v = k.curve4.y.toNat
      else if x < k.curve1.x.toInt then onSegment k.curve0 k.curve1 x v
      else if x < k.curve2.x.toInt then onSegment k.curve1 k.curve2 x v
      else if x < k.curve3.x.toInt then onSegment k.curve2 k.curve3 x v
      else onSegment k.curve3 k.curve4 x v := by
  unfold curve
  split
  · exact ⟨_, rfl, rfl⟩
  split
  · exact ⟨_, rfl, rfl⟩
  split
  · exact segment_onSegment (by omega) (by omega)
  split
  · exact segment_onSegment (by omega) (by omega)
  split
  · exact segment_onSegment (by omega) (by omega)
  · exact segment_onSegment (by omega) (by omega)

/-- A curve whose five duties are at most `m` stays at most `m` (R170). -/
theorem curve_le {k : ChanConfig} {m : Nat} (x : Int) (h0 : k.curve0.y.toNat ≤ m) (h1 : k.curve1.y.toNat ≤ m)
    (h2 : k.curve2.y.toNat ≤ m) (h3 : k.curve3.y.toNat ≤ m) (h4 : k.curve4.y.toNat ≤ m) :
    ∃ v : Nat, curve k x = v ∧ v ≤ m := by
  obtain ⟨v, hv, h⟩ := curve_cases k x
  refine ⟨v, hv, ?_⟩
  split at h
  · omega
  split at h
  · omega
  split at h
  · have := h.2.2; omega
  split at h
  · have := h.2.2; omega
  split at h
  · have := h.2.2; omega
  · have := h.2.2; omega

/-- A duty as a 16-bit register holds the curve's value whole. -/
theorem ofInt_toNat_of_lt {v : Nat} (h : v < 65536) : (BitVec.ofInt 16 (v : Int)).toNat = v := by
  simp
  omega

/-! ### The filter (R163, R164) -/

/-- The smoothed move of a nonnegative distance, rounded up. -/
theorem emaStep_nonneg (k : ChanConfig) (d : Nat) : emaStep k d = ((d * k.alpha.toNat + 65535) / 65536 : Nat) := by
  unfold emaStep
  split
  · have : d = 0 := by omega
    subst this
    simp
  · rw [Int.sign_eq_one_of_pos (by omega)]
    simp

/-- The smoothed move is the same in both directions. -/
theorem emaStep_neg (k : ChanConfig) (d : Int) : emaStep k (-d) = -emaStep k d := by
  unfold emaStep
  split
  · rw [if_pos (by omega)]
    rfl
  · rw [if_neg (by omega), Int.natAbs_neg, Int.sign_neg]
    ring

/-- With ALPHA at most 1.0 the smoothed move never exceeds the distance (R170). -/
theorem ema_le {k : ChanConfig} (d : Nat) (h : k.alpha.toNat ≤ 65536) : (d * k.alpha.toNat + 65535) / 65536 ≤ d := by
  have : d * k.alpha.toNat ≤ d * 65536 := Nat.mul_le_mul_left d h
  omega

/-- With ALPHA at least 1 a nonzero distance is moved (R164). -/
theorem ema_pos {k : ChanConfig} {d : Nat} (h : 1 ≤ k.alpha.toNat) (hd : 1 ≤ d) :
    1 ≤ (d * k.alpha.toNat + 65535) / 65536 := by
  have : 1 * 1 ≤ d * k.alpha.toNat := Nat.mul_le_mul hd h
  omega

/-- The rate limit toward a RAW at or above FILT. -/
theorem rateLimited_up (k : ChanConfig) (dt : Word) (u : CtlState) (h : u.filt.toNat ≤ u.raw.toNat) :
    rateLimited k dt u - u.filt.toNat = (min (u.raw.toNat - u.filt.toNat) (maxStep k dt) : Nat) := by
  unfold rateLimited clamp
  omega

/-- The rate limit toward a RAW below FILT. -/
theorem rateLimited_down (k : ChanConfig) (dt : Word) (u : CtlState) (h : u.raw.toNat ≤ u.filt.toNat) :
    rateLimited k dt u - u.filt.toNat = -((min (u.filt.toNat - u.raw.toNat) (maxStep k dt) : Nat) : Int) := by
  unfold rateLimited clamp
  omega

/-- FilterStep changes FILT alone. -/
theorem filterStep_eq (k : ChanConfig) (dt : Word) (u : CtlState) :
    filterStep k dt u = { u with filt := (filterStep k dt u).filt } := rfl

/-- FILT after a step toward a RAW at or above it. -/
theorem filterStep_up {k : ChanConfig} (dt : Word) {u : CtlState} (ha : k.alpha.toNat ≤ 65536)
    (h : u.filt.toNat ≤ u.raw.toNat) :
    (filterStep k dt u).filt.toNat =
      u.filt.toNat + (min (u.raw.toNat - u.filt.toNat) (maxStep k dt) * k.alpha.toNat + 65535) / 65536 := by
  have hle := ema_le (min (u.raw.toNat - u.filt.toNat) (maxStep k dt)) ha
  have hr := u.raw.isLt
  unfold filterStep
  simp only [rateLimited_up k dt u h, emaStep_nonneg]
  rw [← Nat.cast_add, ofInt_toNat_of_lt (by omega)]

/-- FILT after a step toward a RAW below it. -/
theorem filterStep_down {k : ChanConfig} (dt : Word) {u : CtlState} (ha : k.alpha.toNat ≤ 65536)
    (h : u.raw.toNat ≤ u.filt.toNat) :
    (filterStep k dt u).filt.toNat =
      u.filt.toNat - (min (u.filt.toNat - u.raw.toNat) (maxStep k dt) * k.alpha.toNat + 65535) / 65536 := by
  have hle := ema_le (min (u.filt.toNat - u.raw.toNat) (maxStep k dt)) ha
  have hr := u.filt.isLt
  unfold filterStep
  simp only [rateLimited_down k dt u h, emaStep_neg, emaStep_nonneg]
  rw [← sub_eq_add_neg, ← Nat.cast_sub (by omega), ofInt_toNat_of_lt (by omega)]

/-! ### The latch and the output (R165 to R168) -/

/-- Everything LatchStep can do. -/
theorem latchStep_cases (k : ChanConfig) (now : Word) (u : CtlState) :
    (u.latch = .off ∧ turnsOn k now u = true ∧
        latchStep k now u =
          { u with latch := .on, tTrans := now, kick := true, kickEnd := now + k.kickMs.setWidth 32 }) ∨
      (u.latch = .on ∧ turnsOff k now u = true ∧
        latchStep k now u = { u with latch := .off, tTrans := now, kick := false }) ∨
      (latchStep k now u = u ∧ (u.latch = .off → turnsOn k now u = false) ∧ (u.latch = .on → turnsOff k now u = false)) := by
  unfold latchStep armKick
  rcases hl : u.latch with _ | _
  · cases ht : turnsOn k now u <;> simp
  · cases ht : turnsOff k now u <;> simp

/-- What the output step publishes (R167, R168). -/
theorem publish_eq (k : ChanConfig) (q : BitVec 16) (u : CtlState) :
    publish k q u =
      { u with outq := cap q 25600, out := BitVec.ofNat 7 (((cap q 25600).toNat + 128) / 256),
               active := decide (k.actEps.toNat < (cap q 25600).toNat) } := rfl

theorem publish_outq_toNat (k : ChanConfig) (q : BitVec 16) (u : CtlState) :
    (publish k q u).outq.toNat = min q.toNat 25600 := cap_toNat q (by decide)

/-- OUT is OUTQ as an integer percent (R168). -/
theorem publish_out_toNat (k : ChanConfig) (q : BitVec 16) (u : CtlState) :
    (publish k q u).out.toNat = ((publish k q u).outq.toNat + 128) / 256 := by
  have h := cap_le q (show 25600 < 2 ^ 16 by decide)
  rw [publish_eq]
  simp only [BitVec.toNat_ofNat]
  omega

theorem maxDuty_toNat (a b : BitVec 16) : (maxDuty a b).toNat = max a.toNat b.toNat := by
  unfold maxDuty
  split <;> omega

/-- Everything OutputStep can do. -/
theorem outputStep_cases (k : ChanConfig) (now : Word) (u : CtlState) :
    (u.latch = .off ∧ outputStep k now u = publish k 0#16 u) ∨
      (u.latch = .on ∧ kickInForce now u = true ∧ outputStep k now u = publish k k.kickDuty u) ∨
      (u.latch = .on ∧ kickInForce now u = false ∧
        outputStep k now u = publish k (maxDuty u.filt k.offBelow) { u with kick := false }) := by
  unfold outputStep
  rcases u.latch with _ | _
  · simp
  · cases kickInForce now u <;> simp

/-! ### What the latch, the filter and the output leave -/

@[simp] theorem latchStep_lastTick (k : ChanConfig) (now : Word) (u : CtlState) : (latchStep k now u).lastTick = u.lastTick := by
  rcases latchStep_cases k now u with ⟨-, -, h⟩ | ⟨-, -, h⟩ | ⟨h, -, -⟩ <;> rw [h]

@[simp] theorem latchStep_raw (k : ChanConfig) (now : Word) (u : CtlState) : (latchStep k now u).raw = u.raw := by
  rcases latchStep_cases k now u with ⟨-, -, h⟩ | ⟨-, -, h⟩ | ⟨h, -, -⟩ <;> rw [h]

@[simp] theorem latchStep_filt (k : ChanConfig) (now : Word) (u : CtlState) : (latchStep k now u).filt = u.filt := by
  rcases latchStep_cases k now u with ⟨-, -, h⟩ | ⟨-, -, h⟩ | ⟨h, -, -⟩ <;> rw [h]

@[simp] theorem latchStep_inv (k : ChanConfig) (now : Word) (u : CtlState) : (latchStep k now u).inv = u.inv := by
  rcases latchStep_cases k now u with ⟨-, -, h⟩ | ⟨-, -, h⟩ | ⟨h, -, -⟩ <;> rw [h]

@[simp] theorem latchStep_failsafe (k : ChanConfig) (now : Word) (u : CtlState) : (latchStep k now u).failsafe = u.failsafe := by
  rcases latchStep_cases k now u with ⟨-, -, h⟩ | ⟨-, -, h⟩ | ⟨h, -, -⟩ <;> rw [h]

@[simp] theorem latchStep_invSince (k : ChanConfig) (now : Word) (u : CtlState) : (latchStep k now u).invSince = u.invSince := by
  rcases latchStep_cases k now u with ⟨-, -, h⟩ | ⟨-, -, h⟩ | ⟨h, -, -⟩ <;> rw [h]

@[simp] theorem outputStep_lastTick (k : ChanConfig) (now : Word) (u : CtlState) :
    (outputStep k now u).lastTick = u.lastTick := by
  rcases outputStep_cases k now u with ⟨-, h⟩ | ⟨-, -, h⟩ | ⟨-, -, h⟩ <;> rw [h] <;> rfl

@[simp] theorem outputStep_raw (k : ChanConfig) (now : Word) (u : CtlState) :
    (outputStep k now u).raw = u.raw := by
  rcases outputStep_cases k now u with ⟨-, h⟩ | ⟨-, -, h⟩ | ⟨-, -, h⟩ <;> rw [h] <;> rfl

@[simp] theorem outputStep_filt (k : ChanConfig) (now : Word) (u : CtlState) :
    (outputStep k now u).filt = u.filt := by
  rcases outputStep_cases k now u with ⟨-, h⟩ | ⟨-, -, h⟩ | ⟨-, -, h⟩ <;> rw [h] <;> rfl

@[simp] theorem outputStep_latch (k : ChanConfig) (now : Word) (u : CtlState) :
    (outputStep k now u).latch = u.latch := by
  rcases outputStep_cases k now u with ⟨-, h⟩ | ⟨-, -, h⟩ | ⟨-, -, h⟩ <;> rw [h] <;> rfl

@[simp] theorem outputStep_inv (k : ChanConfig) (now : Word) (u : CtlState) :
    (outputStep k now u).inv = u.inv := by
  rcases outputStep_cases k now u with ⟨-, h⟩ | ⟨-, -, h⟩ | ⟨-, -, h⟩ <;> rw [h] <;> rfl

@[simp] theorem outputStep_failsafe (k : ChanConfig) (now : Word) (u : CtlState) :
    (outputStep k now u).failsafe = u.failsafe := by
  rcases outputStep_cases k now u with ⟨-, h⟩ | ⟨-, -, h⟩ | ⟨-, -, h⟩ <;> rw [h] <;> rfl

@[simp] theorem outputStep_invSince (k : ChanConfig) (now : Word) (u : CtlState) :
    (outputStep k now u).invSince = u.invSince := by
  rcases outputStep_cases k now u with ⟨-, h⟩ | ⟨-, -, h⟩ | ⟨-, -, h⟩ <;> rw [h] <;> rfl

@[simp] theorem outputStep_tTrans (k : ChanConfig) (now : Word) (u : CtlState) :
    (outputStep k now u).tTrans = u.tTrans := by
  rcases outputStep_cases k now u with ⟨-, h⟩ | ⟨-, -, h⟩ | ⟨-, -, h⟩ <;> rw [h] <;> rfl

@[simp] theorem outputStep_kickEnd (k : ChanConfig) (now : Word) (u : CtlState) :
    (outputStep k now u).kickEnd = u.kickEnd := by
  rcases outputStep_cases k now u with ⟨-, h⟩ | ⟨-, -, h⟩ | ⟨-, -, h⟩ <;> rw [h] <;> rfl

@[simp] theorem filterStep_lastTick (k : ChanConfig) (dt : Word) (u : CtlState) : (filterStep k dt u).lastTick = u.lastTick := rfl

@[simp] theorem filterStep_raw (k : ChanConfig) (dt : Word) (u : CtlState) : (filterStep k dt u).raw = u.raw := rfl

@[simp] theorem filterStep_latch (k : ChanConfig) (dt : Word) (u : CtlState) : (filterStep k dt u).latch = u.latch := rfl

@[simp] theorem filterStep_kick (k : ChanConfig) (dt : Word) (u : CtlState) : (filterStep k dt u).kick = u.kick := rfl

@[simp] theorem filterStep_inv (k : ChanConfig) (dt : Word) (u : CtlState) : (filterStep k dt u).inv = u.inv := rfl

@[simp] theorem filterStep_failsafe (k : ChanConfig) (dt : Word) (u : CtlState) : (filterStep k dt u).failsafe = u.failsafe := rfl

@[simp] theorem filterStep_invSince (k : ChanConfig) (dt : Word) (u : CtlState) : (filterStep k dt u).invSince = u.invSince := rfl

@[simp] theorem filterStep_tTrans (k : ChanConfig) (dt : Word) (u : CtlState) : (filterStep k dt u).tTrans = u.tTrans := rfl

@[simp] theorem filterStep_kickEnd (k : ChanConfig) (dt : Word) (u : CtlState) : (filterStep k dt u).kickEnd = u.kickEnd := rfl

/-! ### The latch's conditions and the output's values (R165 to R168) -/

theorem turnsOn_iff (k : ChanConfig) (now : Word) (u : CtlState) :
    turnsOn k now u = true ↔
      u.failsafe = true ∨ (k.minOffMs.toNat ≤ (now - u.tTrans).toNat ∧ k.onAbove.toNat ≤ u.raw.toNat) := by
  simp only [turnsOn, Bool.or_eq_true, Bool.and_eq_true, decide_eq_true_eq]
  rfl

theorem turnsOff_iff (k : ChanConfig) (now : Word) (u : CtlState) :
    turnsOff k now u = true ↔
      u.failsafe = false ∧ k.minOnMs.toNat ≤ (now - u.tTrans).toNat ∧ u.raw.toNat < k.offBelow.toNat := by
  simp only [turnsOff, Bool.and_eq_true, decide_eq_true_eq, Bool.not_eq_true', and_assoc]
  rfl

theorem kickInForce_iff (now : Word) (u : CtlState) :
    kickInForce now u = true ↔ u.kick = true ∧ 0 < (u.kickEnd - now).toInt := by
  simp only [kickInForce, Bool.and_eq_true, decide_eq_true_eq]
  rfl

/-- KICK_MS in a 32-bit stamp. -/
theorem kickMs_setWidth (k : ChanConfig) : k.kickMs.setWidth 32 = BitVec.ofNat 32 k.kickMs.toNat := by
  apply BitVec.eq_of_toNat_eq
  simp

/-- A kick that ends KICK_MS after `now` has KICK_MS to go (R166, R168). -/
theorem kickMs_remaining (k : ChanConfig) (now : Word) :
    (now + BitVec.ofNat 32 k.kickMs.toNat - now).toInt = k.kickMs.toNat := by
  have hk := k.kickMs.isLt
  have h : now + BitVec.ofNat 32 k.kickMs.toNat - now = BitVec.ofNat 32 k.kickMs.toNat := by ring
  rw [h, BitVec.toInt_eq_toNat_of_lt] <;> simp <;> omega

theorem outputStep_out (k : ChanConfig) (now : Word) (u : CtlState) :
    (outputStep k now u).out.toNat = ((outputStep k now u).outq.toNat + 128) / 256 := by
  rcases outputStep_cases k now u with ⟨-, h⟩ | ⟨-, -, h⟩ | ⟨-, -, h⟩ <;> rw [h] <;> exact publish_out_toNat _ _ _

theorem outputStep_active (k : ChanConfig) (now : Word) (u : CtlState) :
    (outputStep k now u).active = true ↔ k.actEps.toNat < (outputStep k now u).outq.toNat := by
  rcases outputStep_cases k now u with ⟨-, h⟩ | ⟨-, -, h⟩ | ⟨-, -, h⟩ <;> rw [h] <;> simp [publish, activeOf]

theorem outputStep_outq_le (k : ChanConfig) (now : Word) (u : CtlState) :
    (outputStep k now u).outq.toNat ≤ 25600 := by
  rcases outputStep_cases k now u with ⟨-, h⟩ | ⟨-, -, h⟩ | ⟨-, -, h⟩ <;> rw [h, publish_outq_toNat] <;> omega

/-- The output while OFF (R167). -/
theorem outputStep_off {k : ChanConfig} {now : Word} {u : CtlState} (h : u.latch = .off) :
    outputStep k now u = publish k 0#16 u := by
  simp [outputStep, h]

/-- The output while ON: the kick's duty while the kick is in force, else FILT floored at OFF_BELOW (R167). -/
theorem outputStep_on {k : ChanConfig} {now : Word} {u : CtlState} (h : u.latch = .on) :
    (kickInForce now u = true ∧ (outputStep k now u).kick = true ∧
        (outputStep k now u).outq.toNat = min k.kickDuty.toNat 25600) ∨
      (kickInForce now u = false ∧ (outputStep k now u).kick = false ∧
        (outputStep k now u).outq.toNat = min (max u.filt.toNat k.offBelow.toNat) 25600) := by
  rcases outputStep_cases k now u with ⟨h1, he⟩ | ⟨-, h2, he⟩ | ⟨-, h2, he⟩
  · simp [h] at h1
  · exact .inl ⟨h2, by rw [he]; exact ((kickInForce_iff now u).mp h2).1, by rw [he, publish_outq_toNat]⟩
  · exact .inr ⟨h2, by rw [he]; rfl, by rw [he, publish_outq_toNat, maxDuty_toNat]⟩

end Sys2Proof.Machine
end

