-- ==== Sys2Proof/Laws/Encoding.lean ====
section
/-! SUPPORT. The bits and the fields of an operation word (30_encoding.md R91) and of an offset (10_state.md R22), and what
the decoder answers for each kind of word (R95). -/

namespace Sys2Proof

/-! ### Bits of a concatenation -/

theorem append_bit {n m : Nat} (w : BitVec (n + m)) (x : BitVec n) (y : BitVec m) (h : w = x ++ y) (i : Nat) :
    w.getLsbD i = if i < m then y.getLsbD i else x.getLsbD (i - m) := by
  subst h
  rw [BitVec.getLsbD_append]

theorem busWord_bit (k sz : BitVec 2) (a : Offset) (i : Nat) :
    (k ++ sz ++ a : OpWord).getLsbD i =
      if i < 12 then a.getLsbD i else if i < 14 then sz.getLsbD (i - 12) else k.getLsbD (i - 14) := by
  rw [append_bit (n := 4) (m := 12) (k ++ sz ++ a : OpWord) (k ++ sz) a rfl,
    append_bit (n := 2) (m := 2) (k ++ sz) k sz rfl]
  split
  · rfl
  · congr 1
    simp only [eq_iff_iff]
    omega

theorem unmappedOffset_bit (a : BitVec 10) (i : Nat) :
    (unmappedOffset a).getLsbD i = if i < 2 then false else a.getLsbD (i - 2) := by
  rw [append_bit (n := 10) (m := 2) (unmappedOffset a) a 0#2 rfl]
  simp

/-! ### The fields of a word -/

theorem opKind_word (k sz : BitVec 2) (a : Offset) : opKind (k ++ sz ++ a) = k := by
  apply BitVec.eq_of_getLsbD_eq
  intro i hi
  rw [opKind, BitVec.getLsbD_extractLsb', busWord_bit]
  simp [hi, show ¬ 14 + i < 12 by omega, -BitVec.getLsbD_eq_getElem]

theorem opSize_word (k sz : BitVec 2) (a : Offset) : opSize (k ++ sz ++ a) = sz := by
  apply BitVec.eq_of_getLsbD_eq
  intro i hi
  rw [opSize, BitVec.getLsbD_extractLsb', busWord_bit]
  simp [hi, show ¬ 12 + i < 12 by omega, show 12 + i < 14 by omega, -BitVec.getLsbD_eq_getElem]

theorem opOffset_word (k sz : BitVec 2) (a : Offset) : opOffset (k ++ sz ++ a) = a := by
  apply BitVec.eq_of_getLsbD_eq
  intro i hi
  rw [opOffset, BitVec.getLsbD_extractLsb', busWord_bit]
  simp [hi, -BitVec.getLsbD_eq_getElem]

/-- A word is its three fields. -/
theorem word_of_fields (w : OpWord) : (opKind w ++ opSize w ++ opOffset w : OpWord) = w := by
  apply BitVec.eq_of_getLsbD_eq
  intro i hi
  rw [busWord_bit, opKind, opSize, opOffset]
  simp only [BitVec.getLsbD_extractLsb']
  split
  · simp [*]
  · split
    · simp [show i - 12 < 2 by omega, show 12 + (i - 12) = i by omega]
    · simp [show i - 14 < 2 by omega, show 14 + (i - 14) = i by omega]

/-- The word of an RD is BUS-R with a word size (R99). -/
theorem presentRd_word (o : Offset) : (presentRd o).word = (0#2 ++ 2#2 ++ o : OpWord) := by
  apply BitVec.eq_of_getLsbD_eq
  intro i hi
  rw [busWord_bit, presentRd, BitVec.getLsbD_or, BitVec.getLsbD_setWidth]
  split
  · interval_cases i <;> simp
  · interval_cases i <;> simp_all

/-- The word of a WR is BUS-W with a word size (R99). -/
theorem presentWr_word (o : Offset) (v : Word) : (presentWr o v).word = (1#2 ++ 2#2 ++ o : OpWord) := by
  apply BitVec.eq_of_getLsbD_eq
  intro i hi
  rw [busWord_bit, presentWr, BitVec.getLsbD_or, BitVec.getLsbD_setWidth]
  split
  · interval_cases i <;> simp
  · interval_cases i <;> simp_all

theorem presentRd_eq (o : Offset) : presentRd o = presentBus .rd 2#2 o :=
  congrArg (fun w => (⟨w, 0#32⟩ : Presented)) (presentRd_word o)

theorem presentWr_eq (o : Offset) (v : Word) : presentWr o v = presentBus (.wr v) 2#2 o :=
  congrArg (fun w => (⟨w, v⟩ : Presented)) (presentWr_word o v)

/-! ### The fields of an offset -/

/-- A channel register's offset: the channel window bits, the channel, the register and aligned low bits (R22). -/
theorem chanOffset_fields : ∀ (c : ChanIx) (rel : BitVec 7), rel.extractLsb' 0 2 = 0#2 →
    (chanOffset c rel).extractLsb' 0 2 = 0#2 ∧ (chanOffset c rel).extractLsb' 2 5 = rel.extractLsb' 2 5 ∧
      (chanOffset c rel).extractLsb' 7 2 = c ∧ (chanOffset c rel).extractLsb' 9 3 = 1#3 ∧
      (chanOffset c rel).extractLsb' 5 7 ≠ 0#7 ∧
      (chanOffset c rel).toNat = 0x200 + 0x80 * c.toNat + rel.toNat := by decide

theorem unmappedOffset_low (a : BitVec 10) : (unmappedOffset a).extractLsb' 0 2 = 0#2 := by
  apply BitVec.eq_of_getLsbD_eq
  intro i hi
  rw [BitVec.getLsbD_extractLsb', unmappedOffset_bit]
  simp [hi]

theorem unmappedOffset_high (a : BitVec 10) : (unmappedOffset a).extractLsb' 2 10 = a := by
  apply BitVec.eq_of_getLsbD_eq
  intro i hi
  rw [BitVec.getLsbD_extractLsb', unmappedOffset_bit]
  simp [hi, show ¬ 2 + i < 2 by omega, -BitVec.getLsbD_eq_getElem]

theorem unmappedOffset_toNat (a : BitVec 10) : (unmappedOffset a).toNat = 4 * a.toNat := by
  unfold unmappedOffset
  rw [BitVec.toNat_append, Nat.shiftLeft_eq]
  simp
  omega

/-- An aligned offset is its upper ten bits. -/
theorem unmappedOffset_of_aligned (a : Offset) (h : a.extractLsb' 0 2 = 0#2) : unmappedOffset (a.extractLsb' 2 10) = a := by
  apply BitVec.eq_of_getLsbD_eq
  intro i hi
  rw [unmappedOffset_bit, BitVec.getLsbD_extractLsb']
  have hb := congrArg (fun b : BitVec 2 => b.getLsbD i) h
  simp only [BitVec.getLsbD_extractLsb'] at hb
  split
  · simp_all
  · simp [show i - 2 < 10 by omega, show 2 + (i - 2) = i by omega, -BitVec.getLsbD_eq_getElem]

/-! ### The decoder, kind by kind (R95) -/

/-- A bus word decodes to the row of its access. -/
theorem decode_presentBus (nch : Nat) (acc : Access) (sz : BitVec 2) (a : Offset) :
    decode nch (presentBus acc sz a) = .ok (decodeBus acc sz a) := by
  cases acc <;> simp [decode, presentBus, opKind_word, opSize_word, opOffset_word]

/-- A word-sized access to a channel register decodes to that register's row, for every channel number. -/
theorem decodeBus_channel (acc : Access) (c : ChanIx) (rel : BitVec 7) (h : rel.extractLsb' 0 2 = 0#2) :
    decodeBus acc 2#2 (chanOffset c rel) = decodeChannel acc c (rel.extractLsb' 2 5) := by
  obtain ⟨h0, h2, hc, h9, h5, -⟩ := chanOffset_fields c rel h
  simp [decodeBus, h0, hc, h9, h5, h2]

/-- The fields of an EDGE word (R92). -/
theorem edgeWord_fields : ∀ c : ChanIx,
    opKind (0x8000#16 ||| c.setWidth 16) = 2#2 ∧ opSize (0x8000#16 ||| c.setWidth 16) = 0#2 ∧
      (opOffset (0x8000#16 ||| c.setWidth 16)).extractLsb' 2 10 = 0#10 ∧
      (opOffset (0x8000#16 ||| c.setWidth 16)).extractLsb' 0 2 = c := by decide

/-- An EDGE word decodes exactly when the channel exists. -/
theorem decode_edgeWord (nch : Nat) (c : ChanIx) (v : Word) :
    decode nch ⟨0x8000#16 ||| c.setWidth 16, v⟩ =
      if c.toNat < nch then .ok (.edge c) else .error .noSuchTachInput := by
  obtain ⟨hk, hs, ha, hc⟩ := edgeWord_fields c
  simp [decode, hk, hs, ha, hc]

/-! ### The rows of the register map -/

/-- A 3-bit value is one of eight. -/
theorem bitVec3_cases (P : BitVec 3 → Prop) (h : ∀ n : Fin 8, P (BitVec.ofNat 3 n.val)) (x : BitVec 3) : P x := by
  have := h ⟨x.toNat, x.isLt⟩
  simpa using this

/-- A 5-bit value is one of 32. -/
theorem bitVec5_cases (P : BitVec 5 → Prop) (h : ∀ n : Fin 32, P (BitVec.ofNat 5 n.val)) (x : BitVec 5) : P x := by
  have := h ⟨x.toNat, x.isLt⟩
  simpa using this

/-- A global register row encodes to the word access at its offset. -/
theorem encode_decodeGlobal (acc : Access) (ix : BitVec 3) :
    encode (decodeGlobal acc ix) = presentBus acc 2#2 (0#7 ++ ix ++ 0#2) := by
  induction ix using bitVec3_cases with
  | h n => cases acc <;> fin_cases n <;> first | exact presentRd_eq _ | exact presentWr_eq _ _

/-- A channel register row encodes to the word access at its offset. -/
theorem encode_decodeChannel (acc : Access) (c : ChanIx) (ix : BitVec 5) :
    encode (decodeChannel acc c ix) = presentBus acc 2#2 (chanOffset c (ix ++ 0#2 : BitVec 7)) := by
  induction ix using bitVec5_cases with
  | h n => cases acc <;> fin_cases n <;> first | exact presentRd_eq _ | exact presentWr_eq _ _
/-- Register rows are well-formed. -/
theorem wf_decodeGlobal (nch : Nat) (acc : Access) (ix : BitVec 3) : wellFormed nch (decodeGlobal acc ix) = true := by
  induction ix using bitVec3_cases with
  | h n => cases acc <;> fin_cases n <;> rfl

theorem wf_decodeChannel (nch : Nat) (acc : Access) (c : ChanIx) (ix : BitVec 5) :
    wellFormed nch (decodeChannel acc c ix) = true := by
  induction ix using bitVec5_cases with
  | h n => cases acc <;> fin_cases n <;> rfl

/-- An aligned offset of the global block is its register index. -/
theorem offset_of_global (a : Offset) (h0 : a.extractLsb' 0 2 = 0#2) (h : a.extractLsb' 5 7 = 0#7) :
    (0#7 ++ a.extractLsb' 2 3 ++ 0#2 : Offset) = a := by
  revert a
  decide +kernel

/-- An aligned offset of the channel windows is its channel and register. -/
theorem offset_of_channel (a : Offset) (h0 : a.extractLsb' 0 2 = 0#2) (h : a.extractLsb' 9 3 = 1#3) :
    chanOffset (a.extractLsb' 7 2) (a.extractLsb' 2 5 ++ 0#2 : BitVec 7) = a := by
  revert a
  decide +kernel

/-- An offset whose upper ten bits are 0 is its low two bits. -/
theorem offset_of_low (a : Offset) (h : a.extractLsb' 2 10 = 0#10) : a = (a.extractLsb' 0 2).setWidth 12 := by
  revert a
  decide +kernel

/-- A word of the kind and size of EDGE with a small offset is an EDGE word (R92). -/
theorem edgeWord_of_fields (w : OpWord) (hk : opKind w = 2#2) (hs : opSize w = 0#2)
    (ha : (opOffset w).extractLsb' 2 10 = 0#10) : w = 0x8000#16 ||| ((opOffset w).extractLsb' 0 2).setWidth 16 := by
  have hw := word_of_fields w
  rw [hk, hs, offset_of_low _ ha] at hw
  refine hw.symm.trans ?_
  generalize (opOffset w).extractLsb' 0 2 = c
  revert c
  decide

/-! ### Encodings, kind by kind (R90, R92) -/

@[simp] theorem opKind_presentBus_rd (sz : BitVec 2) (a : Offset) : opKind (presentBus .rd sz a).word = 0#2 :=
  opKind_word 0#2 sz a

@[simp] theorem opKind_presentBus_wr (v : Word) (sz : BitVec 2) (a : Offset) :
    opKind (presentBus (.wr v) sz a).word = 1#2 := opKind_word 1#2 sz a

@[simp] theorem opSize_presentBus (acc : Access) (sz : BitVec 2) (a : Offset) :
    opSize (presentBus acc sz a).word = sz := by
  cases acc <;> exact opSize_word _ sz a

@[simp] theorem opOffset_presentBus (acc : Access) (sz : BitVec 2) (a : Offset) :
    opOffset (presentBus acc sz a).word = a := by
  cases acc <;> exact opOffset_word _ sz a

@[simp] theorem presentBus_rd_wdata (sz : BitVec 2) (a : Offset) : (presentBus .rd sz a).wdata = 0#32 := rfl

@[simp] theorem presentBus_wr_wdata (v : Word) (sz : BitVec 2) (a : Offset) : (presentBus (.wr v) sz a).wdata = v := rfl

/-- Every operation is a tach edge, one of the two system events, or a bus access. -/
theorem encode_cases (i : Instr) :
    (∃ c, i = .edge c) ∨ i = .tickUs ∨ i = .reset ∨ ∃ acc sz a, encode i = presentBus acc sz a := by
  cases i
  case edge c => exact .inl ⟨c, rfl⟩
  case tickUs => exact .inr (.inl rfl)
  case reset => exact .inr (.inr (.inl rfl))
  all_goals
    refine .inr (.inr (.inr ?_))
    first
      | exact ⟨_, _, _, presentRd_eq _⟩
      | exact ⟨_, _, _, presentWr_eq _ _⟩
      | exact ⟨_, _, _, rfl⟩

end Sys2Proof
end

