-- ==== Sys2Proof/Laws/State.lean ====
section
/-! SUPPORT. What each named update of the state leaves in each field: one lemma for each field of each update, so that no
later proof unfolds a record update. -/

namespace Sys2Proof.Machine

/-! ### The port -/

@[simp] theorem answer_en (st : Status) (rd : Option Word) (s : State) : (answer st rd s).en = s.en := rfl
@[simp] theorem answer_err (st : Status) (rd : Option Word) (s : State) : (answer st rd s).err = s.err := rfl
@[simp] theorem answer_nowMs (st : Status) (rd : Option Word) (s : State) : (answer st rd s).nowMs = s.nowMs := rfl
@[simp] theorem answer_nowUs (st : Status) (rd : Option Word) (s : State) : (answer st rd s).nowUs = s.nowUs := rfl
@[simp] theorem answer_temp (st : Status) (rd : Option Word) (s : State) : (answer st rd s).temp = s.temp := rfl
@[simp] theorem answer_presc (st : Status) (rd : Option Word) (s : State) : (answer st rd s).presc = s.presc := rfl
@[simp] theorem answer_chans (st : Status) (rd : Option Word) (s : State) : (answer st rd s).chans = s.chans := rfl
@[simp] theorem answer_port (st : Status) (rd : Option Word) (s : State) : (answer st rd s).port = some ⟨st, rd⟩ := rfl
@[simp] theorem answer_pending (st : Status) (rd : Option Word) (s : State) : (answer st rd s).pending = s.pending := rfl

/-! ### Bus errors -/

@[simp] theorem busError_en (e : BusErr) (a : Offset) (wr : Bool) (s : State) : (busError e a wr s).en = s.en := rfl
@[simp] theorem busError_err (e : BusErr) (a : Offset) (wr : Bool) (s : State) : (busError e a wr s).err = recordError e a wr s.err := rfl
@[simp] theorem busError_nowMs (e : BusErr) (a : Offset) (wr : Bool) (s : State) : (busError e a wr s).nowMs = s.nowMs := rfl
@[simp] theorem busError_nowUs (e : BusErr) (a : Offset) (wr : Bool) (s : State) : (busError e a wr s).nowUs = s.nowUs := rfl
@[simp] theorem busError_temp (e : BusErr) (a : Offset) (wr : Bool) (s : State) : (busError e a wr s).temp = s.temp := rfl
@[simp] theorem busError_presc (e : BusErr) (a : Offset) (wr : Bool) (s : State) : (busError e a wr s).presc = s.presc := rfl
@[simp] theorem busError_chans (e : BusErr) (a : Offset) (wr : Bool) (s : State) : (busError e a wr s).chans = s.chans := rfl
@[simp] theorem busError_port (e : BusErr) (a : Offset) (wr : Bool) (s : State) : (busError e a wr s).port = some ⟨.err, if wr then none else some 0#32⟩ := rfl
@[simp] theorem busError_pending (e : BusErr) (a : Offset) (wr : Bool) (s : State) : (busError e a wr s).pending = s.pending := rfl

/-! ### Channel updates -/

@[simp] theorem updateChan_en (c : ChanIx) (f : Channel → Channel) (s : State) : (updateChan c f s).en = s.en := rfl
@[simp] theorem updateChan_err (c : ChanIx) (f : Channel → Channel) (s : State) : (updateChan c f s).err = s.err := rfl
@[simp] theorem updateChan_nowMs (c : ChanIx) (f : Channel → Channel) (s : State) : (updateChan c f s).nowMs = s.nowMs := rfl
@[simp] theorem updateChan_nowUs (c : ChanIx) (f : Channel → Channel) (s : State) : (updateChan c f s).nowUs = s.nowUs := rfl
@[simp] theorem updateChan_temp (c : ChanIx) (f : Channel → Channel) (s : State) : (updateChan c f s).temp = s.temp := rfl
@[simp] theorem updateChan_presc (c : ChanIx) (f : Channel → Channel) (s : State) : (updateChan c f s).presc = s.presc := rfl
@[simp] theorem updateChan_chans (c : ChanIx) (f : Channel → Channel) (s : State) : (updateChan c f s).chans = s.chans.modify c.toNat f := rfl
@[simp] theorem updateChan_port (c : ChanIx) (f : Channel → Channel) (s : State) : (updateChan c f s).port = s.port := rfl
@[simp] theorem updateChan_pending (c : ChanIx) (f : Channel → Channel) (s : State) : (updateChan c f s).pending = s.pending := rfl

/-! ### Start -/

@[simp] theorem startAll_en (s : State) : (startAll s).en = s.en := rfl
@[simp] theorem startAll_err (s : State) : (startAll s).err = s.err := rfl
@[simp] theorem startAll_nowMs (s : State) : (startAll s).nowMs = s.nowMs := rfl
@[simp] theorem startAll_nowUs (s : State) : (startAll s).nowUs = s.nowUs := rfl
@[simp] theorem startAll_temp (s : State) : (startAll s).temp = s.temp := rfl
@[simp] theorem startAll_presc (s : State) : (startAll s).presc = s.presc := rfl
@[simp] theorem startAll_chans (s : State) : (startAll s).chans = s.chans.map (startChannel s.nowMs s.nowUs) := rfl
@[simp] theorem startAll_port (s : State) : (startAll s).port = s.port := rfl
@[simp] theorem startAll_pending (s : State) : (startAll s).pending = s.pending := rfl

/-! ### Clearing ERR -/

@[simp] theorem clearErr_en (s : State) : (clearErr s).en = s.en := rfl
@[simp] theorem clearErr_err (s : State) : (clearErr s).err = ⟨none, 0#12, false, false⟩ := rfl
@[simp] theorem clearErr_nowMs (s : State) : (clearErr s).nowMs = s.nowMs := rfl
@[simp] theorem clearErr_nowUs (s : State) : (clearErr s).nowUs = s.nowUs := rfl
@[simp] theorem clearErr_temp (s : State) : (clearErr s).temp = s.temp := rfl
@[simp] theorem clearErr_presc (s : State) : (clearErr s).presc = s.presc := rfl
@[simp] theorem clearErr_chans (s : State) : (clearErr s).chans = s.chans := rfl
@[simp] theorem clearErr_port (s : State) : (clearErr s).port = s.port := rfl
@[simp] theorem clearErr_pending (s : State) : (clearErr s).pending = s.pending := rfl

/-! ### The millisecond event and CTRL -/

@[simp] theorem msEvent_en (s : State) : (msEvent s).en = s.en := by
  unfold msEvent
  split <;> rfl

@[simp] theorem writeCtrl_en (v : Word) (s : State) : (writeCtrl v s).en = v.getLsbD 0 := by
  unfold writeCtrl stopAll startAll
  cases s.en <;> cases v.getLsbD 0 <;> rfl

@[simp] theorem msEvent_err (s : State) : (msEvent s).err = s.err := by
  unfold msEvent
  split <;> rfl

@[simp] theorem writeCtrl_err (v : Word) (s : State) : (writeCtrl v s).err = s.err := by
  unfold writeCtrl stopAll startAll
  cases s.en <;> cases v.getLsbD 0 <;> rfl

@[simp] theorem msEvent_nowMs (s : State) : (msEvent s).nowMs = s.nowMs := by
  unfold msEvent
  split <;> rfl

@[simp] theorem writeCtrl_nowMs (v : Word) (s : State) : (writeCtrl v s).nowMs = s.nowMs := by
  unfold writeCtrl stopAll startAll
  cases s.en <;> cases v.getLsbD 0 <;> rfl

@[simp] theorem msEvent_nowUs (s : State) : (msEvent s).nowUs = s.nowUs := by
  unfold msEvent
  split <;> rfl

@[simp] theorem writeCtrl_nowUs (v : Word) (s : State) : (writeCtrl v s).nowUs = s.nowUs := by
  unfold writeCtrl stopAll startAll
  cases s.en <;> cases v.getLsbD 0 <;> rfl

@[simp] theorem msEvent_temp (s : State) : (msEvent s).temp = s.temp := by
  unfold msEvent
  split <;> rfl

@[simp] theorem writeCtrl_temp (v : Word) (s : State) : (writeCtrl v s).temp = s.temp := by
  unfold writeCtrl stopAll startAll
  cases s.en <;> cases v.getLsbD 0 <;> rfl

@[simp] theorem msEvent_presc (s : State) : (msEvent s).presc = s.presc := by
  unfold msEvent
  split <;> rfl

@[simp] theorem writeCtrl_presc (v : Word) (s : State) : (writeCtrl v s).presc = s.presc := by
  unfold writeCtrl stopAll startAll
  cases s.en <;> cases v.getLsbD 0 <;> rfl

theorem msEvent_chans (s : State) :
    (msEvent s).chans = if s.en then s.chans.map (channelMs s.nowMs s.temp) else s.chans := by
  unfold msEvent
  split <;> rfl

theorem writeCtrl_chans (v : Word) (s : State) :
    (writeCtrl v s).chans = if s.en = false ∧ v.getLsbD 0 = true then s.chans.map (startChannel s.nowMs s.nowUs)
      else s.chans := by
  unfold writeCtrl stopAll startAll
  cases s.en <;> cases v.getLsbD 0 <;> rfl

@[simp] theorem msEvent_port (s : State) : (msEvent s).port = s.port := by
  unfold msEvent
  split <;> rfl

@[simp] theorem writeCtrl_port (v : Word) (s : State) : (writeCtrl v s).port = s.port := by
  unfold writeCtrl stopAll startAll
  cases s.en <;> cases v.getLsbD 0 <;> rfl

@[simp] theorem msEvent_pending (s : State) : (msEvent s).pending = s.pending := by
  unfold msEvent
  split <;> rfl

@[simp] theorem writeCtrl_pending (v : Word) (s : State) : (writeCtrl v s).pending = s.pending := by
  unfold writeCtrl stopAll startAll
  cases s.en <;> cases v.getLsbD 0 <;> rfl

/-! ### The channel count: no update changes it -/

@[simp] theorem nch_answer (st : Status) (rd : Option Word) (s : State) : (answer st rd s).nch = s.nch := rfl

@[simp] theorem nch_busError (e : BusErr) (a : Offset) (wr : Bool) (s : State) : (busError e a wr s).nch = s.nch := rfl

@[simp] theorem nch_updateChan (c : ChanIx) (f : Channel → Channel) (s : State) : (updateChan c f s).nch = s.nch :=
  List.length_modify _ _ _

@[simp] theorem nch_startAll (s : State) : (startAll s).nch = s.nch := List.length_map _

@[simp] theorem nch_clearErr (s : State) : (clearErr s).nch = s.nch := rfl

@[simp] theorem nch_msEvent (s : State) : (msEvent s).nch = s.nch := by
  unfold State.nch
  rw [msEvent_chans]
  split
  · exact List.length_map _
  · rfl

@[simp] theorem nch_writeCtrl (v : Word) (s : State) : (writeCtrl v s).nch = s.nch := by
  unfold State.nch
  rw [writeCtrl_chans]
  split
  · exact List.length_map _
  · rfl

/-! ### The start values of a channel (R65) -/

@[simp] theorem startChannel_cfg (nm nu : Word) (ch : Channel) : (startChannel nm nu ch).cfg = ch.cfg := rfl

@[simp] theorem startChannel_pulse (nm nu : Word) (ch : Channel) : (startChannel nm nu ch).pulse = ⟨0#32, nu, nm⟩ := rfl

@[simp] theorem startChannel_est (nm nu : Word) (ch : Channel) :
    (startChannel nm nu ch).est = ⟨0#32, 0xFFFFFFFF#32, 0#32, nm⟩ := rfl

@[simp] theorem startChannel_ctl (nm nu : Word) (ch : Channel) :
    (startChannel nm nu ch).ctl =
      ⟨nm, 0#16, 0#16, 0#16, 0#7, false, .off, false, false, false, nm, nm, nm⟩ := rfl

end Sys2Proof.Machine
end

