-- ==== Sys2Proof/Laws/Ops.lean ====
section
/-! SUPPORT. What each shared operation of Machine/Ops.lean can do: reading and changing a channel, the next operation, the
error record, BusCheck at every kind of offset, and the access envelope (10_state.md R31; 44_bus_global.md R220;
60_exceptions.md R300 to R306). -/

namespace Sys2Proof.Machine

/-! ### Channels -/

theorem chanAt_eq_of_get {s : State} {c : ChanIx} {ch : Channel} (h : s.chans[c.toNat]? = some ch) : chanAt s c = ch := by
  simp [chanAt, h]

theorem get_of_lt {s : State} {c : ChanIx} (h : c.toNat < s.nch) : s.chans[c.toNat]? = some (chanAt s c) := by
  unfold State.nch at h
  simp [chanAt, h]

theorem lt_of_get {s : State} {c : ChanIx} {ch : Channel} (h : s.chans[c.toNat]? = some ch) : c.toNat < s.nch := by
  obtain ⟨hlt, -⟩ := List.getElem?_eq_some_iff.mp h
  exact hlt

theorem chanAt_mem {s : State} {c : ChanIx} (h : c.toNat < s.nch) : chanAt s c ∈ s.chans :=
  List.mem_of_getElem? (get_of_lt h)

/-- Two states with the same channels have the same channel `c`. -/
theorem chanAt_congr {s t : State} (h : t.chans = s.chans) (c : ChanIx) : chanAt t c = chanAt s c := by
  simp [chanAt, h]

/-- Channel `c` of a state whose channels are all mapped by `f`. -/
theorem chanAt_of_map {s t : State} {f : Channel → Channel} {c : ChanIx} (h : t.chans = s.chans.map f)
    (hc : c.toNat < s.nch) : chanAt t c = f (chanAt s c) := by
  rw [chanAt, h, List.getElem?_map, get_of_lt hc]
  rfl

/-- Changing a channel changes that channel. -/
theorem chanAt_updateChan_same {s : State} {c : ChanIx} {f : Channel → Channel} (hc : c.toNat < s.nch) :
    chanAt (updateChan c f s) c = f (chanAt s c) := by
  rw [chanAt, updateChan_chans, List.getElem?_modify, get_of_lt hc]
  simp

/-- Changing a channel leaves every other channel. -/
theorem chanAt_updateChan_other {s : State} {c d : ChanIx} {f : Channel → Channel} (h : d ≠ c) :
    chanAt (updateChan c f s) d = chanAt s d := by
  have hne : c.toNat ≠ d.toNat := fun he => h (BitVec.eq_of_toNat_eq he.symm)
  unfold chanAt
  rw [updateChan_chans, List.getElem?_modify]
  simp [hne]

theorem chanAt_updateChan (s : State) (c d : ChanIx) (f : Channel → Channel) (hd : d.toNat < s.nch) :
    chanAt (updateChan c f s) d = if d = c then f (chanAt s d) else chanAt s d := by
  split
  · subst_vars
    exact chanAt_updateChan_same hd
  · exact chanAt_updateChan_other ‹_›

/-- Changing channel `c` sets it to the changed channel. -/
theorem modify_eq_set {s : State} {c : ChanIx} (f : Channel → Channel) (hc : c.toNat < s.nch) :
    s.chans.modify c.toNat f = s.chans.set c.toNat (f (chanAt s c)) := by
  have hg := get_of_lt hc
  apply List.ext_getElem?
  intro j
  rw [List.getElem?_modify, List.getElem?_set]
  by_cases hj : c.toNat = j
  · subst hj
    rw [hg, if_pos rfl, if_pos (show c.toNat < s.chans.length from hc)]
    simp
  · simp [hj]

/-- Setting channel `c` to what it is changes nothing. -/
theorem set_chanAt {s : State} {c : ChanIx} : s.chans.set c.toNat (chanAt s c) = s.chans := by
  apply List.ext_getElem?
  intro j
  rw [List.getElem?_set]
  by_cases hj : c.toNat = j
  · subst hj
    by_cases hc : c.toNat < s.nch
    · rw [if_pos rfl, if_pos (show c.toNat < s.chans.length from hc), get_of_lt hc]
    · simp [show ¬ c.toNat < s.chans.length from hc]
  · simp [hj]

@[simp] theorem chanAt_answer (st : Status) (rd : Option Word) (s : State) (c : ChanIx) :
    chanAt (answer st rd s) c = chanAt s c := rfl

@[simp] theorem chanAt_busError (e : BusErr) (a : Offset) (wr : Bool) (s : State) (c : ChanIx) :
    chanAt (busError e a wr s) c = chanAt s c := rfl

@[simp] theorem chanAt_clearErr (s : State) (c : ChanIx) : chanAt (clearErr s) c = chanAt s c := rfl

/-! ### The next operation and the step -/

theorem nextOperation_none {s : State} (h : s.pending = []) : nextOperation s = none := by
  simp [nextOperation, h]

theorem nextOperation_some {s : State} {p : Presented} {rest : List Presented} (h : s.pending = p :: rest) :
    nextOperation s = some (p, { s with pending := rest }) := by
  simp [nextOperation, h]

/-- Everything a step can do when it answers next: nothing, or the decoded operation. -/
theorem step_next_cases {s t : State} (h : step s = .next t) :
    (s.pending = [] ∧ t = s) ∨
      ∃ p rest i, s.pending = p :: rest ∧ decode s.nch p = .ok i ∧ exec i { s with pending := rest } = .next t := by
  unfold step at h
  rcases hp : s.pending with _ | ⟨p, rest⟩
  · rw [nextOperation_none hp] at h
    exact .inl ⟨rfl, by simpa using h.symm⟩
  · rw [nextOperation_some hp] at h
    refine .inr ⟨p, rest, ?_⟩
    rcases hd : decode s.nch p with e | i
    · have : decode (State.nch { s with pending := rest }) p = .error e := hd
      simp [this] at h
    · have : decode (State.nch { s with pending := rest }) p = .ok i := hd
      simp only [this] at h
      exact ⟨i, rfl, rfl, h⟩

/-! ### The error record -/

/-- RecordError with no error recorded. -/
theorem recordError_first {e : ErrReg} (code : BusErr) (a : Offset) (wr : Bool) (h : e.code = none) :
    recordError code a wr e = ⟨some code, a, wr, false⟩ := by
  simp [recordError, h]

/-- RecordError with an error recorded. -/
theorem recordError_later {e : ErrReg} (code : BusErr) (a : Offset) (wr : Bool) (h : e.code ≠ none) :
    recordError code a wr e = { e with ovf := true } := by
  unfold recordError
  split
  · contradiction
  · rfl

/-- The error always leaves a code. -/
theorem recordError_code (e : ErrReg) (code : BusErr) (a : Offset) (wr : Bool) : (recordError code a wr e).code ≠ none := by
  unfold recordError
  split
  · simp
  · simp_all

/-! ### BusCheck (R302) -/

theorem busCheck_size {nch : Nat} {sz : BitVec 2} (a : Offset) (wr : Bool) (h : sz ≠ 2#2) :
    busCheck nch sz a wr = some .size := by
  simp [busCheck, h]

theorem busCheck_misalign {nch : Nat} {a : Offset} (wr : Bool) (h : a.extractLsb' 0 2 ≠ 0#2) :
    busCheck nch 2#2 a wr = some .misalign := by
  simp [busCheck, h]

/-- A read of a global register is never an error. -/
theorem busCheck_global_read {nch : Nat} {a : Offset} (h0 : a.extractLsb' 0 2 = 0#2) (h : a.extractLsb' 5 7 = 0#7) :
    busCheck nch 2#2 a false = none := by
  simp [busCheck, mapped, h0, h]

theorem busCheck_global_write {nch : Nat} {a : Offset} (h0 : a.extractLsb' 0 2 = 0#2) (h : a.extractLsb' 5 7 = 0#7) :
    busCheck nch 2#2 a true = if readOnly a then some .roWrite else none := by
  simp [busCheck, mapped, h0, h]

/-- The status registers are the read-only channel registers. -/
theorem readOnly_channel : ∀ (c : ChanIx) (rel : BitVec 7), rel.extractLsb' 0 2 = 0#2 →
    readOnly (chanOffset c rel) = decide (0x4C ≤ rel.toNat) := by decide

/-- BusCheck at a channel register: UNMAPPED for an absent channel, RO_WRITE for a write of a status register. -/
theorem busCheck_channel (nch : Nat) (c : ChanIx) (rel : BitVec 7) (wr : Bool) (h : rel.extractLsb' 0 2 = 0#2) :
    busCheck nch 2#2 (chanOffset c rel) wr =
      if c.toNat < nch then (if wr = true ∧ 0x4C ≤ rel.toNat then some .roWrite else none) else some .unmapped := by
  obtain ⟨h0, -, hc, h9, h5, -⟩ := chanOffset_fields c rel h
  simp only [busCheck, mapped, h0, hc, h9, readOnly_channel c rel h]
  cases wr <;> simp [h5] <;> split <;> simp_all

/-! ### The access envelope (R220) -/

theorem busRead_ok {s : State} {a : Offset} {value : State → Word} (h : busCheck s.nch 2#2 a false = none) :
    busRead a value s = answer .ok (some (value s)) s := by
  simp [busRead, h]

theorem busRead_error {s : State} {a : Offset} {value : State → Word} {e : BusErr}
    (h : busCheck s.nch 2#2 a false = some e) : busRead a value s = busError e a false s := by
  simp [busRead, h]

theorem busWrite_ok {s : State} {a : Offset} {write : State → State} (h : busCheck s.nch 2#2 a true = none) :
    busWrite a write s = answer .ok none (write s) := by
  simp [busWrite, h]

theorem busWrite_error {s : State} {a : Offset} {write : State → State} {e : BusErr}
    (h : busCheck s.nch 2#2 a true = some e) : busWrite a write s = busError e a true s := by
  simp [busWrite, h]

/-- Everything a read can do: answer with the value, or raise an error. -/
theorem busRead_cases (a : Offset) (value : State → Word) (s : State) :
    busRead a value s = answer .ok (some (value s)) s ∨ ∃ e, busRead a value s = busError e a false s := by
  rcases h : busCheck s.nch 2#2 a false with _ | e
  · exact .inl (busRead_ok h)
  · exact .inr ⟨e, busRead_error h⟩

/-- Everything a write can do: run the write rule and answer, or raise an error. -/
theorem busWrite_cases (a : Offset) (write : State → State) (s : State) :
    busWrite a write s = answer .ok none (write s) ∨ ∃ e, busWrite a write s = busError e a true s := by
  rcases h : busCheck s.nch 2#2 a true with _ | e
  · exact .inl (busWrite_ok h)
  · exact .inr ⟨e, busWrite_error h⟩

/-- A read of a register of a channel that exists. -/
theorem readChannel_ok {s : State} {c : ChanIx} {rel : BitVec 7} (value : Channel → Word)
    (h : rel.extractLsb' 0 2 = 0#2) (hc : c.toNat < s.nch) :
    readChannel c rel value s = answer .ok (some (value (chanAt s c))) s :=
  busRead_ok (by rw [busCheck_channel _ _ _ _ h]; simp [hc])

/-- A read of a register of an absent channel. -/
theorem readChannel_absent {s : State} {c : ChanIx} {rel : BitVec 7} (value : Channel → Word)
    (h : rel.extractLsb' 0 2 = 0#2) (hc : ¬ c.toNat < s.nch) :
    readChannel c rel value s = busError .unmapped (chanOffset c rel) false s :=
  busRead_error (by rw [busCheck_channel _ _ _ _ h]; simp [hc])

theorem readConfig_ok {s : State} {c : ChanIx} {rel : BitVec 7} (value : ChanConfig → Word)
    (h : rel.extractLsb' 0 2 = 0#2) (hc : c.toNat < s.nch) :
    readConfig c rel value s = answer .ok (some (value (chanAt s c).cfg)) s := readChannel_ok _ h hc

theorem readConfig_absent {s : State} {c : ChanIx} {rel : BitVec 7} (value : ChanConfig → Word)
    (h : rel.extractLsb' 0 2 = 0#2) (hc : ¬ c.toNat < s.nch) :
    readConfig c rel value s = busError .unmapped (chanOffset c rel) false s := readChannel_absent _ h hc

/-- A write of a configuration register of a channel that exists. -/
theorem writeConfig_ok {s : State} {c : ChanIx} {rel : BitVec 7} (f : ChanConfig → ChanConfig)
    (h : rel.extractLsb' 0 2 = 0#2) (hrel : rel.toNat < 0x4C) (hc : c.toNat < s.nch) :
    writeConfig c rel f s = answer .ok none (updateChan c (fun ch => { ch with cfg := f ch.cfg }) s) :=
  busWrite_ok (by rw [busCheck_channel _ _ _ _ h]; simp [hc]; omega)

theorem writeConfig_absent {s : State} {c : ChanIx} {rel : BitVec 7} (f : ChanConfig → ChanConfig)
    (h : rel.extractLsb' 0 2 = 0#2) (hc : ¬ c.toNat < s.nch) :
    writeConfig c rel f s = busError .unmapped (chanOffset c rel) true s :=
  busWrite_error (by rw [busCheck_channel _ _ _ _ h]; simp [hc])

/-- A write of a status register of a channel that exists. -/
theorem busWriteReadOnly_channel {s : State} {c : ChanIx} {rel : BitVec 7}
    (h : rel.extractLsb' 0 2 = 0#2) (hrel : 0x4C ≤ rel.toNat) (hc : c.toNat < s.nch) :
    busWriteReadOnly (chanOffset c rel) s = busError .roWrite (chanOffset c rel) true s :=
  busWrite_error (by rw [busCheck_channel _ _ _ _ h]; simp [hc, hrel])

theorem busWriteReadOnly_absent {s : State} {c : ChanIx} {rel : BitVec 7}
    (h : rel.extractLsb' 0 2 = 0#2) (hc : ¬ c.toNat < s.nch) :
    busWriteReadOnly (chanOffset c rel) s = busError .unmapped (chanOffset c rel) true s :=
  busWrite_error (by rw [busCheck_channel _ _ _ _ h]; simp [hc])

/-- A write of a read-only global register. -/
theorem busWriteReadOnly_global {s : State} {a : Offset} (h0 : a.extractLsb' 0 2 = 0#2) (h : a.extractLsb' 5 7 = 0#7)
    (hr : readOnly a = true) : busWriteReadOnly a s = busError .roWrite a true s :=
  busWrite_error (by rw [busCheck_global_write h0 h]; simp [hr])

end Sys2Proof.Machine
end

