-- ==== Sys2Proof/Laws/Exec.lean ====
section
/-! SUPPORT. Everything an operation can do when it answers next: one lemma for RD, one for WR, and one over all of `exec`,
which the invariants and frames cite in place of the 86 meanings. -/

namespace Sys2Proof.Machine

/-- What a bus read can leave: the port answered, or an error recorded. -/
def ReadEffect (s t : State) : Prop :=
  (∃ v, t = answer .ok (some v) s) ∨ ∃ e a, t = busError e a false s

/-- What a write of a configuration register can leave: one channel's configuration changed by a function that keeps legal
configurations legal and is idempotent, or an error recorded. -/
def ConfigWriteEffect (s t : State) : Prop :=
  (∃ (c : ChanIx) (f : ChanConfig → ChanConfig), (∀ k : ChanConfig, k.Legal → (f k).Legal) ∧
      (∀ k : ChanConfig, f (f k) = f k) ∧ t = answer .ok none (updateChan c (fun ch => { ch with cfg := f ch.cfg }) s)) ∨
    ∃ e a, t = busError e a true s

/-- What a write of a read-only register can leave: an error recorded. -/
def RejectedEffect (s t : State) : Prop := ∃ e a, t = busError e a true s

theorem readEffect_of {a : Offset} {value : State → Word} {s t : State}
    (h : (.next (busRead a value s) : Host.Outcome State Fault Refusal) = .next t) : ReadEffect s t := by
  cases h
  rcases busRead_cases a value s with h | ⟨e, h⟩
  · exact .inl ⟨_, h⟩
  · exact .inr ⟨e, a, h⟩

theorem readEffect_config {c : ChanIx} {rel : BitVec 7} {value : ChanConfig → Word} {s t : State}
    (h : (.next (readConfig c rel value s) : Host.Outcome State Fault Refusal) = .next t) : ReadEffect s t := by
  unfold readConfig readChannel at h
  exact readEffect_of h

theorem configWriteEffect_of {c : ChanIx} {rel : BitVec 7} {f : ChanConfig → ChanConfig} {s t : State}
    (h : (.next (writeConfig c rel f s) : Host.Outcome State Fault Refusal) = .next t)
    (hl : ∀ k : ChanConfig, k.Legal → (f k).Legal) (hi : ∀ k : ChanConfig, f (f k) = f k) : ConfigWriteEffect s t := by
  cases h
  rcases busWrite_cases (chanOffset c rel) (updateChan c (fun ch => { ch with cfg := f ch.cfg })) s with h | ⟨e, h⟩
  · exact .inl ⟨c, f, hl, hi, h⟩
  · exact .inr ⟨e, _, h⟩

theorem rejectedEffect_channel {c : ChanIx} {rel : BitVec 7} {s t : State}
    (h : (.next (busWriteReadOnly (chanOffset c rel) s) : Host.Outcome State Fault Refusal) = .next t)
    (h0 : rel.extractLsb' 0 2 = 0#2) (hr : 0x4C ≤ rel.toNat) : RejectedEffect s t := by
  cases h
  by_cases hc : c.toNat < s.nch
  · exact ⟨_, _, busWriteReadOnly_channel h0 hr hc⟩
  · exact ⟨_, _, busWriteReadOnly_absent h0 hc⟩

theorem rejectedEffect_global {a : Offset} {s t : State}
    (h : (.next (busWriteReadOnly a s) : Host.Outcome State Fault Refusal) = .next t)
    (h0 : a.extractLsb' 0 2 = 0#2) (h5 : a.extractLsb' 5 7 = 0#7) (hr : readOnly a = true) : RejectedEffect s t := by
  cases h
  exact ⟨_, _, busWriteReadOnly_global h0 h5 hr⟩

/-- Everything an operation can do when it answers next. -/
theorem exec_next_cases {i : Instr} {s t : State} (h : exec i s = .next t) :
    (opKind (encode i).word = 0#2 ∧ ReadEffect s t) ∨
      (opKind (encode i).word = 1#2 ∧ ConfigWriteEffect s t) ∨
      (opKind (encode i).word = 1#2 ∧ RejectedEffect s t) ∨
      (∃ v, i = .wrCtrl v ∧ t = answer .ok none (writeCtrl v s)) ∨
      (∃ v, i = .wrErr v ∧ t = answer .ok none (clearErr s)) ∨
      (∃ v, i = .wrTemp v ∧ t = answer .ok none { s with temp := tempOfWord v }) ∨
      (∃ c, i = .edge c ∧ c.toNat < s.nch ∧ t = if s.en then updateChan c (recordEdge s.nowUs s.nowMs) s else s) ∨
      (i = .tickUs ∧ execTickUs s = .next t) ∨
      (i = .reset ∧ execReset s = .next t) := by
  cases i
  case wrCtrl v => exact .inr (.inr (.inr (.inl ⟨v, rfl, by cases h; rfl⟩)))
  case wrErr v => exact .inr (.inr (.inr (.inr (.inl ⟨v, rfl, by cases h; rfl⟩))))
  case wrTemp v => exact .inr (.inr (.inr (.inr (.inr (.inl ⟨v, rfl, by cases h; rfl⟩)))))
  case edge c =>
    refine .inr (.inr (.inr (.inr (.inr (.inr (.inl ⟨c, rfl, ?_⟩))))))
    simp only [exec, execEdge] at h
    split at h
    · cases h
      exact ⟨‹_›, rfl⟩
    · cases h
  case tickUs => exact .inr (.inr (.inr (.inr (.inr (.inr (.inr (.inl ⟨rfl, h⟩)))))))
  case reset => exact .inr (.inr (.inr (.inr (.inr (.inr (.inr (.inr ⟨rfl, h⟩)))))))
  case unmapped acc a =>
    cases acc <;> cases h
    · exact .inl ⟨opKind_presentBus_rd _ _, .inr ⟨_, _, rfl⟩⟩
    · exact .inr (.inr (.inl ⟨opKind_presentBus_wr _ _ _, ⟨_, _, rfl⟩⟩))
  case misaligned acc a =>
    cases acc <;> cases h
    · exact .inl ⟨opKind_presentBus_rd _ _, .inr ⟨_, _, rfl⟩⟩
    · exact .inr (.inr (.inl ⟨opKind_presentBus_wr _ _ _, ⟨_, _, rfl⟩⟩))
  case badSize acc sz a =>
    cases acc <;> cases h
    · exact .inl ⟨opKind_presentBus_rd _ _, .inr ⟨_, _, rfl⟩⟩
    · exact .inr (.inr (.inl ⟨opKind_presentBus_wr _ _ _, ⟨_, _, rfl⟩⟩))
  all_goals
    first
      | refine .inl ⟨by simp only [encode, presentRd_eq, opKind_presentBus_rd], readEffect_of h⟩
      | refine .inl ⟨by simp only [encode, presentRd_eq, opKind_presentBus_rd], readEffect_config h⟩
      | refine .inr (.inr (.inl ⟨by simp only [encode, presentWr_eq, opKind_presentBus_wr],
          rejectedEffect_global h rfl rfl rfl⟩))
      | refine .inr (.inr (.inl ⟨by simp only [encode, presentWr_eq, opKind_presentBus_wr],
          rejectedEffect_channel h rfl (by decide)⟩))
      | refine .inr (.inl ⟨by simp only [encode, presentWr_eq, opKind_presentBus_wr],
          configWriteEffect_of h ?_ ?_⟩)
  all_goals intro k
  all_goals
    first
      | rfl
      | (rintro ⟨h1, h2, h3, h4, h5, h6, h7, h8, h9, h10, h11, h12, h13, h14⟩
         refine ⟨?_, ?_, ?_, ?_, ?_, ?_, ?_, ?_, ?_, ?_, ?_, ?_, ?_, ?_⟩ <;>
           first
             | assumption
             | exact min1_ne_zero (by decide) _
             | exact cap_le _ (by decide))

/-! ### What an access answers -/

/-- An access answers OK, or it is the bus error at offset `a`. -/
def AccessEffect (a : Offset) (wr : Bool) (s t : State) : Prop :=
  t.port.map (fun r => r.status) = some .ok ∨ ∃ e, t = busError e a wr s

theorem accessEffect_read {a : Offset} {value : State → Word} {s t : State}
    (h : (.next (busRead a value s) : Host.Outcome State Fault Refusal) = .next t) : AccessEffect a false s t := by
  cases h
  rcases busRead_cases a value s with h | ⟨e, h⟩
  · exact .inl (by rw [h]; rfl)
  · exact .inr ⟨e, h⟩

theorem accessEffect_write {a : Offset} {write : State → State} {s t : State}
    (h : (.next (busWrite a write s) : Host.Outcome State Fault Refusal) = .next t) : AccessEffect a true s t := by
  cases h
  rcases busWrite_cases a write s with h | ⟨e, h⟩
  · exact .inl (by rw [h]; rfl)
  · exact .inr ⟨e, h⟩

theorem accessEffect_config {c : ChanIx} {rel : BitVec 7} {value : ChanConfig → Word} {s t : State}
    (h : (.next (readConfig c rel value s) : Host.Outcome State Fault Refusal) = .next t) :
    AccessEffect (chanOffset c rel) false s t := by
  unfold readConfig readChannel at h
  exact accessEffect_read h

theorem accessEffect_writeConfig {c : ChanIx} {rel : BitVec 7} {f : ChanConfig → ChanConfig} {s t : State}
    (h : (.next (writeConfig c rel f s) : Host.Outcome State Fault Refusal) = .next t) :
    AccessEffect (chanOffset c rel) true s t := by
  unfold writeConfig at h
  exact accessEffect_write h

/-- Everything an access of the bus port can do to the port: it answers OK, or it is the bus error at its own offset and in its
own direction (R300). -/
theorem exec_accessEffect {i : Instr} {s t : State} (h : exec i s = .next t) (ha : agentOf i = .host) :
    AccessEffect (opOffset (encode i).word) (decide (opKind (encode i).word = 1#2)) s t := by
  cases i
  case edge c => exact absurd ha (by clear h ha; revert c; decide)
  case tickUs => exact absurd ha (by decide)
  case reset => exact absurd ha (by decide)
  case unmapped acc a => cases acc <;> cases h <;> exact .inr ⟨.unmapped, by simp [encode, isWrite]⟩
  case misaligned acc a => cases acc <;> cases h <;> exact .inr ⟨.misalign, by simp [encode, isWrite]⟩
  case badSize acc sz a => cases acc <;> cases h <;> exact .inr ⟨.size, by simp [encode, isWrite]⟩
  all_goals
    simp only [encode, presentRd_eq, presentWr_eq, opOffset_presentBus, opKind_presentBus_rd, opKind_presentBus_wr]
    first
      | exact accessEffect_read h
      | exact accessEffect_write h
      | exact accessEffect_config h

end Sys2Proof.Machine
end

