-- ==== Sys2Proof/Laws/PerInstr.lean ====
section
/-! SUPPORT. The family `TableRow`: the encoded word of every well-formed operation lies in the operation's own row of
spec/opcode_table.json (its match and mask), one lemma for each constructor. -/

namespace Sys2Proof.Laws.TableRow

/-- The match and mask of the operation's row. -/
def rowOf : Instr → OpWord × OpWord
  | .rdId => (0x2000#16, 0xFFFF#16)
  | .wrId _ => (0x6000#16, 0xFFFF#16)
  | .rdCfg => (0x2004#16, 0xFFFF#16)
  | .wrCfg _ => (0x6004#16, 0xFFFF#16)
  | .rdCtrl => (0x2008#16, 0xFFFF#16)
  | .wrCtrl _ => (0x6008#16, 0xFFFF#16)
  | .rdErr => (0x200C#16, 0xFFFF#16)
  | .wrErr _ => (0x600C#16, 0xFFFF#16)
  | .rdNowMs => (0x2010#16, 0xFFFF#16)
  | .wrNowMs _ => (0x6010#16, 0xFFFF#16)
  | .rdNowUs => (0x2014#16, 0xFFFF#16)
  | .wrNowUs _ => (0x6014#16, 0xFFFF#16)
  | .rdTemp => (0x2018#16, 0xFFFF#16)
  | .wrTemp _ => (0x6018#16, 0xFFFF#16)
  | .rdPresc => (0x201C#16, 0xFFFF#16)
  | .wrPresc _ => (0x601C#16, 0xFFFF#16)
  | .rdChDebounceUs _ => (0x2200#16, 0xFE7F#16)
  | .wrChDebounceUs _ _ => (0x6200#16, 0xFE7F#16)
  | .rdChWindowMs _ => (0x2204#16, 0xFE7F#16)
  | .wrChWindowMs _ _ => (0x6204#16, 0xFE7F#16)
  | .rdChTimeoutMs _ => (0x2208#16, 0xFE7F#16)
  | .wrChTimeoutMs _ _ => (0x6208#16, 0xFE7F#16)
  | .rdChPpr _ => (0x220C#16, 0xFE7F#16)
  | .wrChPpr _ _ => (0x620C#16, 0xFE7F#16)
  | .rdChPeriodMs _ => (0x2210#16, 0xFE7F#16)
  | .wrChPeriodMs _ _ => (0x6210#16, 0xFE7F#16)
  | .rdChRate _ => (0x2214#16, 0xFE7F#16)
  | .wrChRate _ _ => (0x6214#16, 0xFE7F#16)
  | .rdChAlpha _ => (0x2218#16, 0xFE7F#16)
  | .wrChAlpha _ _ => (0x6218#16, 0xFE7F#16)
  | .rdChThresh _ => (0x221C#16, 0xFE7F#16)
  | .wrChThresh _ _ => (0x621C#16, 0xFE7F#16)
  | .rdChMinOnMs _ => (0x2220#16, 0xFE7F#16)
  | .wrChMinOnMs _ _ => (0x6220#16, 0xFE7F#16)
  | .rdChMinOffMs _ => (0x2224#16, 0xFE7F#16)
  | .wrChMinOffMs _ _ => (0x6224#16, 0xFE7F#16)
  | .rdChKickDuty _ => (0x2228#16, 0xFE7F#16)
  | .wrChKickDuty _ _ => (0x6228#16, 0xFE7F#16)
  | .rdChKickMs _ => (0x222C#16, 0xFE7F#16)
  | .wrChKickMs _ _ => (0x622C#16, 0xFE7F#16)
  | .rdChHoldMs _ => (0x2230#16, 0xFE7F#16)
  | .wrChHoldMs _ _ => (0x6230#16, 0xFE7F#16)
  | .rdChSafe _ => (0x2234#16, 0xFE7F#16)
  | .wrChSafe _ _ => (0x6234#16, 0xFE7F#16)
  | .rdChCurve0 _ => (0x2238#16, 0xFE7F#16)
  | .wrChCurve0 _ _ => (0x6238#16, 0xFE7F#16)
  | .rdChCurve1 _ => (0x223C#16, 0xFE7F#16)
  | .wrChCurve1 _ _ => (0x623C#16, 0xFE7F#16)
  | .rdChCurve2 _ => (0x2240#16, 0xFE7F#16)
  | .wrChCurve2 _ _ => (0x6240#16, 0xFE7F#16)
  | .rdChCurve3 _ => (0x2244#16, 0xFE7F#16)
  | .wrChCurve3 _ _ => (0x6244#16, 0xFE7F#16)
  | .rdChCurve4 _ => (0x2248#16, 0xFE7F#16)
  | .wrChCurve4 _ _ => (0x6248#16, 0xFE7F#16)
  | .rdChLastTick _ => (0x224C#16, 0xFE7F#16)
  | .wrChLastTick _ _ => (0x624C#16, 0xFE7F#16)
  | .rdChCount _ => (0x2250#16, 0xFE7F#16)
  | .wrChCount _ _ => (0x6250#16, 0xFE7F#16)
  | .rdChBase _ => (0x2254#16, 0xFE7F#16)
  | .wrChBase _ _ => (0x6254#16, 0xFE7F#16)
  | .rdChRpm _ => (0x2258#16, 0xFE7F#16)
  | .wrChRpm _ _ => (0x6258#16, 0xFE7F#16)
  | .rdChDelta _ => (0x225C#16, 0xFE7F#16)
  | .wrChDelta _ _ => (0x625C#16, 0xFE7F#16)
  | .rdChWinEnd _ => (0x2260#16, 0xFE7F#16)
  | .wrChWinEnd _ _ => (0x6260#16, 0xFE7F#16)
  | .rdChLastPulseMs _ => (0x2264#16, 0xFE7F#16)
  | .wrChLastPulseMs _ _ => (0x6264#16, 0xFE7F#16)
  | .rdChLastEdgeUs _ => (0x2268#16, 0xFE7F#16)
  | .wrChLastEdgeUs _ _ => (0x6268#16, 0xFE7F#16)
  | .rdChCmd _ => (0x226C#16, 0xFE7F#16)
  | .wrChCmd _ _ => (0x626C#16, 0xFE7F#16)
  | .rdChOut _ => (0x2270#16, 0xFE7F#16)
  | .wrChOut _ _ => (0x6270#16, 0xFE7F#16)
  | .rdChTTrans _ => (0x2274#16, 0xFE7F#16)
  | .wrChTTrans _ _ => (0x6274#16, 0xFE7F#16)
  | .rdChKickEnd _ => (0x2278#16, 0xFE7F#16)
  | .wrChKickEnd _ _ => (0x6278#16, 0xFE7F#16)
  | .rdChInvSince _ => (0x227C#16, 0xFE7F#16)
  | .wrChInvSince _ _ => (0x627C#16, 0xFE7F#16)
  | .edge _ => (0x8000#16, 0xFFFC#16)
  | .tickUs => (0xC000#16, 0xFFFF#16)
  | .reset => (0xC001#16, 0xFFFF#16)
  | .unmapped _ _ => (0x2000#16, 0xB003#16)
  | .misaligned _ _ => (0x2000#16, 0xB000#16)
  | .badSize _ _ _ => (0x0000#16, 0x8000#16)

/-- A well-formed operation's word, under the row's mask, is the row's match. -/
def Statement (i : Instr) : Prop :=
  ∀ nch : Nat, wellFormed nch i = true → (encode i).word &&& (rowOf i).2 = (rowOf i).1

/-- The channel field lies outside the mask of a channel row. -/
theorem channelWord_masked (base : OpWord) (rel : BitVec 7) (c : ChanIx) (hbase : base = 0x2000#16 ∨ base = 0x6000#16) :
    (base ||| (chanOffset c rel).setWidth 16) &&& 0xFE7F#16 = base ||| 0x200#16 ||| rel.setWidth 16 := by
  rcases hbase with rfl | rfl <;> revert c rel <;> decide

/-- The channel field of an EDGE word lies outside its row's mask. -/
theorem edgeWord_masked (c : ChanIx) : (0x8000#16 ||| c.setWidth 16) &&& 0xFFFC#16 = 0x8000#16 := by
  revert c
  decide

/-- The fixed bits of the words of a read or write: those of a word access, of an aligned word access, and of an
access. -/
theorem busWord_masked (k sz : BitVec 2) (a : BitVec 10) (b : Offset) (hk : k = 0#2 ∨ k = 1#2) :
    (k ++ 2#2 ++ b : OpWord) &&& 0xB000#16 = 0x2000#16 ∧
      (k ++ 2#2 ++ unmappedOffset a : OpWord) &&& 0xB003#16 = 0x2000#16 ∧
      (k ++ sz ++ b : OpWord) &&& 0x8000#16 = 0x0000#16 := by
  rcases hk with rfl | rfl <;> refine ⟨?_, ?_, ?_⟩ <;> apply BitVec.eq_of_getLsbD_eq <;> intro i hi <;>
    rw [BitVec.getLsbD_and, busWord_bit] <;> interval_cases i <;>
    simp [unmappedOffset_bit, -BitVec.getLsbD_eq_getElem]

theorem rdId : Statement (.rdId) := fun _ _ => rfl

theorem wrId (wdata : Word) : Statement (.wrId wdata) := fun _ _ => by
  simp only [encode, presentWr, rowOf]
  rfl

theorem rdCfg : Statement (.rdCfg) := fun _ _ => rfl

theorem wrCfg (wdata : Word) : Statement (.wrCfg wdata) := fun _ _ => by
  simp only [encode, presentWr, rowOf]
  rfl

theorem rdCtrl : Statement (.rdCtrl) := fun _ _ => rfl

theorem wrCtrl (wdata : Word) : Statement (.wrCtrl wdata) := fun _ _ => by
  simp only [encode, presentWr, rowOf]
  rfl

theorem rdErr : Statement (.rdErr) := fun _ _ => rfl

theorem wrErr (wdata : Word) : Statement (.wrErr wdata) := fun _ _ => by
  simp only [encode, presentWr, rowOf]
  rfl

theorem rdNowMs : Statement (.rdNowMs) := fun _ _ => rfl

theorem wrNowMs (wdata : Word) : Statement (.wrNowMs wdata) := fun _ _ => by
  simp only [encode, presentWr, rowOf]
  rfl

theorem rdNowUs : Statement (.rdNowUs) := fun _ _ => rfl

theorem wrNowUs (wdata : Word) : Statement (.wrNowUs wdata) := fun _ _ => by
  simp only [encode, presentWr, rowOf]
  rfl

theorem rdTemp : Statement (.rdTemp) := fun _ _ => rfl

theorem wrTemp (wdata : Word) : Statement (.wrTemp wdata) := fun _ _ => by
  simp only [encode, presentWr, rowOf]
  rfl

theorem rdPresc : Statement (.rdPresc) := fun _ _ => rfl

theorem wrPresc (wdata : Word) : Statement (.wrPresc wdata) := fun _ _ => by
  simp only [encode, presentWr, rowOf]
  rfl

theorem rdChDebounceUs (c : ChanIx) : Statement (.rdChDebounceUs c) := fun _ _ =>
  channelWord_masked 0x2000#16 0x00#7 c (.inl rfl)

theorem wrChDebounceUs (c : ChanIx) (wdata : Word) : Statement (.wrChDebounceUs c wdata) := fun _ _ =>
  channelWord_masked 0x6000#16 0x00#7 c (.inr rfl)

theorem rdChWindowMs (c : ChanIx) : Statement (.rdChWindowMs c) := fun _ _ =>
  channelWord_masked 0x2000#16 0x04#7 c (.inl rfl)

theorem wrChWindowMs (c : ChanIx) (wdata : Word) : Statement (.wrChWindowMs c wdata) := fun _ _ =>
  channelWord_masked 0x6000#16 0x04#7 c (.inr rfl)

theorem rdChTimeoutMs (c : ChanIx) : Statement (.rdChTimeoutMs c) := fun _ _ =>
  channelWord_masked 0x2000#16 0x08#7 c (.inl rfl)

theorem wrChTimeoutMs (c : ChanIx) (wdata : Word) : Statement (.wrChTimeoutMs c wdata) := fun _ _ =>
  channelWord_masked 0x6000#16 0x08#7 c (.inr rfl)

theorem rdChPpr (c : ChanIx) : Statement (.rdChPpr c) := fun _ _ =>
  channelWord_masked 0x2000#16 0x0C#7 c (.inl rfl)

theorem wrChPpr (c : ChanIx) (wdata : Word) : Statement (.wrChPpr c wdata) := fun _ _ =>
  channelWord_masked 0x6000#16 0x0C#7 c (.inr rfl)

theorem rdChPeriodMs (c : ChanIx) : Statement (.rdChPeriodMs c) := fun _ _ =>
  channelWord_masked 0x2000#16 0x10#7 c (.inl rfl)

theorem wrChPeriodMs (c : ChanIx) (wdata : Word) : Statement (.wrChPeriodMs c wdata) := fun _ _ =>
  channelWord_masked 0x6000#16 0x10#7 c (.inr rfl)

theorem rdChRate (c : ChanIx) : Statement (.rdChRate c) := fun _ _ =>
  channelWord_masked 0x2000#16 0x14#7 c (.inl rfl)

theorem wrChRate (c : ChanIx) (wdata : Word) : Statement (.wrChRate c wdata) := fun _ _ =>
  channelWord_masked 0x6000#16 0x14#7 c (.inr rfl)

theorem rdChAlpha (c : ChanIx) : Statement (.rdChAlpha c) := fun _ _ =>
  channelWord_masked 0x2000#16 0x18#7 c (.inl rfl)

theorem wrChAlpha (c : ChanIx) (wdata : Word) : Statement (.wrChAlpha c wdata) := fun _ _ =>
  channelWord_masked 0x6000#16 0x18#7 c (.inr rfl)

theorem rdChThresh (c : ChanIx) : Statement (.rdChThresh c) := fun _ _ =>
  channelWord_masked 0x2000#16 0x1C#7 c (.inl rfl)

theorem wrChThresh (c : ChanIx) (wdata : Word) : Statement (.wrChThresh c wdata) := fun _ _ =>
  channelWord_masked 0x6000#16 0x1C#7 c (.inr rfl)

theorem rdChMinOnMs (c : ChanIx) : Statement (.rdChMinOnMs c) := fun _ _ =>
  channelWord_masked 0x2000#16 0x20#7 c (.inl rfl)

theorem wrChMinOnMs (c : ChanIx) (wdata : Word) : Statement (.wrChMinOnMs c wdata) := fun _ _ =>
  channelWord_masked 0x6000#16 0x20#7 c (.inr rfl)

theorem rdChMinOffMs (c : ChanIx) : Statement (.rdChMinOffMs c) := fun _ _ =>
  channelWord_masked 0x2000#16 0x24#7 c (.inl rfl)

theorem wrChMinOffMs (c : ChanIx) (wdata : Word) : Statement (.wrChMinOffMs c wdata) := fun _ _ =>
  channelWord_masked 0x6000#16 0x24#7 c (.inr rfl)

theorem rdChKickDuty (c : ChanIx) : Statement (.rdChKickDuty c) := fun _ _ =>
  channelWord_masked 0x2000#16 0x28#7 c (.inl rfl)

theorem wrChKickDuty (c : ChanIx) (wdata : Word) : Statement (.wrChKickDuty c wdata) := fun _ _ =>
  channelWord_masked 0x6000#16 0x28#7 c (.inr rfl)

theorem rdChKickMs (c : ChanIx) : Statement (.rdChKickMs c) := fun _ _ =>
  channelWord_masked 0x2000#16 0x2C#7 c (.inl rfl)

theorem wrChKickMs (c : ChanIx) (wdata : Word) : Statement (.wrChKickMs c wdata) := fun _ _ =>
  channelWord_masked 0x6000#16 0x2C#7 c (.inr rfl)

theorem rdChHoldMs (c : ChanIx) : Statement (.rdChHoldMs c) := fun _ _ =>
  channelWord_masked 0x2000#16 0x30#7 c (.inl rfl)

theorem wrChHoldMs (c : ChanIx) (wdata : Word) : Statement (.wrChHoldMs c wdata) := fun _ _ =>
  channelWord_masked 0x6000#16 0x30#7 c (.inr rfl)

theorem rdChSafe (c : ChanIx) : Statement (.rdChSafe c) := fun _ _ =>
  channelWord_masked 0x2000#16 0x34#7 c (.inl rfl)

theorem wrChSafe (c : ChanIx) (wdata : Word) : Statement (.wrChSafe c wdata) := fun _ _ =>
  channelWord_masked 0x6000#16 0x34#7 c (.inr rfl)

theorem rdChCurve0 (c : ChanIx) : Statement (.rdChCurve0 c) := fun _ _ =>
  channelWord_masked 0x2000#16 0x38#7 c (.inl rfl)

theorem wrChCurve0 (c : ChanIx) (wdata : Word) : Statement (.wrChCurve0 c wdata) := fun _ _ =>
  channelWord_masked 0x6000#16 0x38#7 c (.inr rfl)

theorem rdChCurve1 (c : ChanIx) : Statement (.rdChCurve1 c) := fun _ _ =>
  channelWord_masked 0x2000#16 0x3C#7 c (.inl rfl)

theorem wrChCurve1 (c : ChanIx) (wdata : Word) : Statement (.wrChCurve1 c wdata) := fun _ _ =>
  channelWord_masked 0x6000#16 0x3C#7 c (.inr rfl)

theorem rdChCurve2 (c : ChanIx) : Statement (.rdChCurve2 c) := fun _ _ =>
  channelWord_masked 0x2000#16 0x40#7 c (.inl rfl)

theorem wrChCurve2 (c : ChanIx) (wdata : Word) : Statement (.wrChCurve2 c wdata) := fun _ _ =>
  channelWord_masked 0x6000#16 0x40#7 c (.inr rfl)

theorem rdChCurve3 (c : ChanIx) : Statement (.rdChCurve3 c) := fun _ _ =>
  channelWord_masked 0x2000#16 0x44#7 c (.inl rfl)

theorem wrChCurve3 (c : ChanIx) (wdata : Word) : Statement (.wrChCurve3 c wdata) := fun _ _ =>
  channelWord_masked 0x6000#16 0x44#7 c (.inr rfl)

theorem rdChCurve4 (c : ChanIx) : Statement (.rdChCurve4 c) := fun _ _ =>
  channelWord_masked 0x2000#16 0x48#7 c (.inl rfl)

theorem wrChCurve4 (c : ChanIx) (wdata : Word) : Statement (.wrChCurve4 c wdata) := fun _ _ =>
  channelWord_masked 0x6000#16 0x48#7 c (.inr rfl)

theorem rdChLastTick (c : ChanIx) : Statement (.rdChLastTick c) := fun _ _ =>
  channelWord_masked 0x2000#16 0x4C#7 c (.inl rfl)

theorem wrChLastTick (c : ChanIx) (wdata : Word) : Statement (.wrChLastTick c wdata) := fun _ _ =>
  channelWord_masked 0x6000#16 0x4C#7 c (.inr rfl)

theorem rdChCount (c : ChanIx) : Statement (.rdChCount c) := fun _ _ =>
  channelWord_masked 0x2000#16 0x50#7 c (.inl rfl)

theorem wrChCount (c : ChanIx) (wdata : Word) : Statement (.wrChCount c wdata) := fun _ _ =>
  channelWord_masked 0x6000#16 0x50#7 c (.inr rfl)

theorem rdChBase (c : ChanIx) : Statement (.rdChBase c) := fun _ _ =>
  channelWord_masked 0x2000#16 0x54#7 c (.inl rfl)

theorem wrChBase (c : ChanIx) (wdata : Word) : Statement (.wrChBase c wdata) := fun _ _ =>
  channelWord_masked 0x6000#16 0x54#7 c (.inr rfl)

theorem rdChRpm (c : ChanIx) : Statement (.rdChRpm c) := fun _ _ =>
  channelWord_masked 0x2000#16 0x58#7 c (.inl rfl)

theorem wrChRpm (c : ChanIx) (wdata : Word) : Statement (.wrChRpm c wdata) := fun _ _ =>
  channelWord_masked 0x6000#16 0x58#7 c (.inr rfl)

theorem rdChDelta (c : ChanIx) : Statement (.rdChDelta c) := fun _ _ =>
  channelWord_masked 0x2000#16 0x5C#7 c (.inl rfl)

theorem wrChDelta (c : ChanIx) (wdata : Word) : Statement (.wrChDelta c wdata) := fun _ _ =>
  channelWord_masked 0x6000#16 0x5C#7 c (.inr rfl)

theorem rdChWinEnd (c : ChanIx) : Statement (.rdChWinEnd c) := fun _ _ =>
  channelWord_masked 0x2000#16 0x60#7 c (.inl rfl)

theorem wrChWinEnd (c : ChanIx) (wdata : Word) : Statement (.wrChWinEnd c wdata) := fun _ _ =>
  channelWord_masked 0x6000#16 0x60#7 c (.inr rfl)

theorem rdChLastPulseMs (c : ChanIx) : Statement (.rdChLastPulseMs c) := fun _ _ =>
  channelWord_masked 0x2000#16 0x64#7 c (.inl rfl)

theorem wrChLastPulseMs (c : ChanIx) (wdata : Word) : Statement (.wrChLastPulseMs c wdata) := fun _ _ =>
  channelWord_masked 0x6000#16 0x64#7 c (.inr rfl)

theorem rdChLastEdgeUs (c : ChanIx) : Statement (.rdChLastEdgeUs c) := fun _ _ =>
  channelWord_masked 0x2000#16 0x68#7 c (.inl rfl)

theorem wrChLastEdgeUs (c : ChanIx) (wdata : Word) : Statement (.wrChLastEdgeUs c wdata) := fun _ _ =>
  channelWord_masked 0x6000#16 0x68#7 c (.inr rfl)

theorem rdChCmd (c : ChanIx) : Statement (.rdChCmd c) := fun _ _ =>
  channelWord_masked 0x2000#16 0x6C#7 c (.inl rfl)

theorem wrChCmd (c : ChanIx) (wdata : Word) : Statement (.wrChCmd c wdata) := fun _ _ =>
  channelWord_masked 0x6000#16 0x6C#7 c (.inr rfl)

theorem rdChOut (c : ChanIx) : Statement (.rdChOut c) := fun _ _ =>
  channelWord_masked 0x2000#16 0x70#7 c (.inl rfl)

theorem wrChOut (c : ChanIx) (wdata : Word) : Statement (.wrChOut c wdata) := fun _ _ =>
  channelWord_masked 0x6000#16 0x70#7 c (.inr rfl)

theorem rdChTTrans (c : ChanIx) : Statement (.rdChTTrans c) := fun _ _ =>
  channelWord_masked 0x2000#16 0x74#7 c (.inl rfl)

theorem wrChTTrans (c : ChanIx) (wdata : Word) : Statement (.wrChTTrans c wdata) := fun _ _ =>
  channelWord_masked 0x6000#16 0x74#7 c (.inr rfl)

theorem rdChKickEnd (c : ChanIx) : Statement (.rdChKickEnd c) := fun _ _ =>
  channelWord_masked 0x2000#16 0x78#7 c (.inl rfl)

theorem wrChKickEnd (c : ChanIx) (wdata : Word) : Statement (.wrChKickEnd c wdata) := fun _ _ =>
  channelWord_masked 0x6000#16 0x78#7 c (.inr rfl)

theorem rdChInvSince (c : ChanIx) : Statement (.rdChInvSince c) := fun _ _ =>
  channelWord_masked 0x2000#16 0x7C#7 c (.inl rfl)

theorem wrChInvSince (c : ChanIx) (wdata : Word) : Statement (.wrChInvSince c wdata) := fun _ _ =>
  channelWord_masked 0x6000#16 0x7C#7 c (.inr rfl)

theorem edge (c : ChanIx) : Statement (.edge c) := fun _ _ => edgeWord_masked c

theorem tickUs : Statement (.tickUs) := fun _ _ => rfl

theorem reset : Statement (.reset) := fun _ _ => rfl

theorem unmapped (acc : Access) (a : BitVec 10) : Statement (.unmapped acc a) := fun _ _ => by
  cases acc
  · exact (busWord_masked 0#2 0#2 a 0#12 (.inl rfl)).2.1
  · exact (busWord_masked 1#2 0#2 a 0#12 (.inr rfl)).2.1

theorem misaligned (acc : Access) (a : Offset) : Statement (.misaligned acc a) := fun _ _ => by
  cases acc
  · exact (busWord_masked 0#2 0#2 0#10 a (.inl rfl)).1
  · exact (busWord_masked 1#2 0#2 0#10 a (.inr rfl)).1

theorem badSize (acc : Access) (sz : BitVec 2) (a : Offset) : Statement (.badSize acc sz a) := fun _ _ => by
  cases acc
  · exact (busWord_masked 0#2 sz 0#10 a (.inl rfl)).2.2
  · exact (busWord_masked 1#2 sz 0#10 a (.inr rfl)).2.2

end Sys2Proof.Laws.TableRow
end

