-- ==== Sys2Proof/Laws/RegisterMap.lean ====
section
/-! SUPPORT. Reading and writing the register window (20_memory.md R70, R75, R77): a write changes the register written and
no other, and the envelope's three outcomes. -/

namespace Sys2Proof.Machine

/-! ### Reads -/

/-- The read value at an offset of the global block. -/
theorem memRead_global {s : State} {a : Offset} (h : a.extractLsb' 5 7 = 0#7) :
    memRead s a = globalWord s (a.extractLsb' 2 3).toNat := by
  simp [memRead, mapped, h]

/-- The read value at a register of a channel that exists. -/
theorem memRead_channel {s : State} {c : ChanIx} {rel : BitVec 7} (h : rel.extractLsb' 0 2 = 0#2) (hc : c.toNat < s.nch) :
    memRead s (chanOffset c rel) = channelWord (chanAt s c) (rel.extractLsb' 2 5).toNat := by
  obtain ⟨-, h2, hcc, h9, h5, -⟩ := chanOffset_fields c rel h
  simp [memRead, mapped, h9, hcc, hc, h5, h2]

/-- The read value at an offset of the channel windows, aligned or not. -/
theorem memRead_window {s : State} {a : Offset} (h5 : a.extractLsb' 5 7 ≠ 0#7) (h9 : a.extractLsb' 9 3 = 1#3) :
    memRead s a =
      if (a.extractLsb' 7 2).toNat < s.nch then
        channelWord (chanAt s (a.extractLsb' 7 2)) (a.extractLsb' 2 5).toNat
      else 0#32 := by
  unfold memRead mapped
  simp only [h5, h9, beq_self_eq_true, Bool.true_and, Bool.not_eq_true', if_false]
  split <;> simp_all

/-- No register stands outside the global block and the channel windows. -/
theorem memRead_outside {s : State} {a : Offset} (h5 : a.extractLsb' 5 7 ≠ 0#7) (h9 : a.extractLsb' 9 3 ≠ 1#3) :
    memRead s a = 0#32 := by
  simp [memRead, mapped, h5, h9]

/-! ### Writes -/

/-- The write rule at a channel register. -/
theorem memWrite_channel (s : State) (c : ChanIx) (rel : BitVec 7) (v : Word) (h : rel.extractLsb' 0 2 = 0#2) :
    memWrite s (chanOffset c rel) v =
      updateChan c (fun ch => { ch with cfg := configWith (rel.extractLsb' 2 5).toNat v ch.cfg }) s := by
  obtain ⟨-, h2, hcc, h9, -, h6⟩ := chanOffset_fields c rel h
  have h8 : chanOffset c rel ≠ 0x008#12 := fun e => by rw [e] at h6; simp at h6; omega
  have hC : chanOffset c rel ≠ 0x00C#12 := fun e => by rw [e] at h6; simp at h6; omega
  have h18 : chanOffset c rel ≠ 0x018#12 := fun e => by rw [e] at h6; simp at h6; omega
  simp [memWrite, h8, hC, h18, h9, hcc, h2]

/-- Beyond the nineteen configuration registers there is no write rule. -/
theorem configWith_beyond {ix : Nat} (v : Word) (k : ChanConfig) (h : 19 ≤ ix) : configWith ix v k = k := by
  unfold configWith
  split <;> first | rfl | omega

/-- The status registers do not depend on the configuration. -/
theorem channelWord_status {jx : Nat} (k : ChanConfig) (ch : Channel) (h : 19 ≤ jx) :
    channelWord { ch with cfg := k } jx = channelWord ch jx := by
  by_cases hj : jx < 31
  · interval_cases jx <;> rfl
  · obtain ⟨n, rfl⟩ := Nat.exists_eq_add_of_le (show 31 ≤ jx by omega)
    rw [Nat.add_comm]
    rfl

/-- Writing one configuration register leaves every other register of the channel. -/
theorem channelWord_configWith {ix jx : Nat} (v : Word) (ch : Channel) (h : jx ≠ ix) :
    channelWord { ch with cfg := configWith ix v ch.cfg } jx = channelWord ch jx := by
  by_cases hi : 19 ≤ ix
  · rw [configWith_beyond v ch.cfg hi]
  by_cases hj : 19 ≤ jx
  · exact channelWord_status _ ch hj
  · interval_cases jx <;> interval_cases ix <;> first | exact absurd rfl h | rfl

/-- Writing a configuration register twice is writing it once (R77). -/
theorem configWith_twice (ix : Nat) (v : Word) (k : ChanConfig) :
    configWith ix v (configWith ix v k) = configWith ix v k := by
  by_cases hi : 19 ≤ ix
  · rw [configWith_beyond v _ hi]
  · interval_cases ix <;> rfl

@[simp] theorem nch_memWrite (s : State) (a : Offset) (v : Word) : (memWrite s a v).nch = s.nch := by
  unfold memWrite
  split
  · exact nch_writeCtrl v s
  split
  · rfl
  split
  · rfl
  split
  · exact nch_updateChan _ _ s
  · rfl

/-! ### The envelope -/

theorem busAccess_error {acc : Access} {sz : BitVec 2} {a : Offset} {s : State} {e : BusErr}
    (h : busCheck s.nch sz a (isWrite acc) = some e) : busAccess acc sz a s = busError e a (isWrite acc) s := by
  simp [busAccess, h]

theorem busAccess_rd {sz : BitVec 2} {a : Offset} {s : State} (h : busCheck s.nch sz a false = none) :
    busAccess .rd sz a s = answer .ok (some (memRead s a)) s := by
  simp [busAccess, isWrite, h]

theorem busAccess_wr {sz : BitVec 2} {a : Offset} {s : State} {v : Word} (h : busCheck s.nch sz a true = none) :
    busAccess (.wr v) sz a s = answer .ok none (memWrite s a v) := by
  simp [busAccess, isWrite, h]

end Sys2Proof.Machine
end

