-- ==== Sys2Proof/Laws/Text.lean ====
section
/-! SUPPORT. What the text reader of Machine/AsmText.lean does with hexadecimal literals, with runs of word characters, and with
the register names that the printer writes. -/

namespace Sys2Proof.Machine

/-! ### Hexadecimal literals -/

theorem digitOf_digitChar : ∀ d : Nat, d < 16 → digitOf d.digitChar = some d := by decide

theorem wordChar_digitChar : ∀ d : Nat, d < 16 → wordChar d.digitChar = true ∧ d.digitChar ≠ ';' := by decide

theorem digitsFrom_append (base : Nat) (l m : List Char) (n : Nat) :
    digitsFrom base n (l ++ m) = (digitsFrom base n l).bind (fun k => digitsFrom base k m) := by
  induction l generalizing n with
  | nil => rfl
  | cons c l ih =>
    simp only [List.cons_append, digitsFrom]
    cases digitOf c with
    | none => rfl
    | some d =>
      simp only
      split
      · exact ih _
      · rfl

theorem digitsFrom_toDigits (n : Nat) : digitsFrom 16 0 (Nat.toDigits 16 n) = some n := by
  induction n using Nat.strongRecOn with
  | _ n ih =>
    by_cases h : n < 16
    · rw [Nat.toDigits_of_lt_base h]
      simp [digitsFrom, digitOf_digitChar n h, h]
    · rw [Nat.toDigits_of_base_le (by decide) (by omega), digitsFrom_append, ih (n / 16) (by omega)]
      have hm : n % 16 < 16 := Nat.mod_lt _ (by decide)
      simp only [Option.bind_some, digitsFrom, digitOf_digitChar _ hm, if_pos hm, Option.some.injEq]
      omega

theorem toDigits_ne_nil (n : Nat) : Nat.toDigits 16 n ≠ [] := by
  intro h
  rw [Nat.toDigits_eq_if (by decide)] at h
  split at h <;> simp at h

theorem digits_toDigits (n : Nat) : digits 16 (Nat.toDigits 16 n) = some n := by
  rw [digits, if_neg (by simp), digitsFrom_toDigits]

theorem wordChar_toDigits (n : Nat) : ∀ c ∈ Nat.toDigits 16 n, wordChar c = true ∧ c ≠ ';' := by
  induction n using Nat.strongRecOn with
  | _ n ih =>
    intro c hc
    rw [Nat.toDigits_eq_if (by decide)] at hc
    split at hc
    · rw [List.mem_singleton.mp hc]
      exact wordChar_digitChar n ‹_›
    · rcases List.mem_append.mp hc with hc | hc
      · exact ih (n / 16) (by omega) c hc
      · rw [List.mem_singleton.mp hc]
        exact wordChar_digitChar _ (Nat.mod_lt _ (by decide))

theorem hexText_toList (n : Nat) : (hexText n).toList = '0' :: 'x' :: Nat.toDigits 16 n := by
  simp [hexText]

theorem hexText_chars (n : Nat) : ∀ c ∈ (hexText n).toList, wordChar c = true ∧ c ≠ ';' := by
  rw [hexText_toList]
  intro c hc
  rcases List.mem_cons.mp hc with rfl | hc
  · decide
  rcases List.mem_cons.mp hc with rfl | hc
  · decide
  · exact wordChar_toDigits n c hc

/-- The literal that the printer writes for a number reads as that number. -/
theorem literal_hexText (n : Nat) : literal (hexText n).toList = some n := by
  rw [hexText_toList]
  exact digits_toDigits n

/-! ### Tokens -/

/-- A run of word characters joins the word read so far. -/
theorem tokens_run (w acc rest : List Char) (h : ∀ c ∈ w, wordChar c = true) :
    tokens acc (w ++ rest) = tokens (w.reverse ++ acc) rest := by
  induction w generalizing acc with
  | nil => rfl
  | cons c w ih =>
    simp only [List.cons_append, tokens, h c (List.mem_cons_self ..), if_true]
    rw [ih _ (fun x hx => h x (List.mem_cons_of_mem _ hx))]
    simp

/-- A word at the end of a line is one token. -/
theorem tokens_word (w : List Char) (h : ∀ c ∈ w, wordChar c = true) (hw : w ≠ []) : tokens [] w = [.word w] := by
  have := tokens_run w [] [] h
  rw [List.append_nil, List.append_nil] at this
  rw [this]
  cases hr : w.reverse with
  | nil => exact absurd (List.reverse_eq_nil_iff.mp hr) hw
  | cons c l => simp [tokens, flushWord, ← hr]

/-- A word before a blank is one token. -/
theorem tokens_word_blank (w rest : List Char) (h : ∀ c ∈ w, wordChar c = true) (hw : w ≠ []) :
    tokens [] (w ++ ' ' :: rest) = .word w :: tokens [] rest := by
  rw [tokens_run w [] _ h, List.append_nil]
  cases hr : w.reverse with
  | nil => exact absurd (List.reverse_eq_nil_iff.mp hr) hw
  | cons c l => simp [tokens, flushWord, ← hr, show wordChar ' ' = false by decide]

/-- A word before a comma is one token, and the comma another. -/
theorem tokens_word_comma (w rest : List Char) (h : ∀ c ∈ w, wordChar c = true) (hw : w ≠ []) :
    tokens [] (w ++ ',' :: rest) = .word w :: .sym ',' :: tokens [] rest := by
  rw [tokens_run w [] _ h, List.append_nil]
  cases hr : w.reverse with
  | nil => exact absurd (List.reverse_eq_nil_iff.mp hr) hw
  | cons c l =>
    simp [tokens, flushWord, ← hr, show wordChar ',' = false by decide, show (',' : Char).isWhitespace = false by decide]

theorem tokens_blank (rest : List Char) : tokens [] (' ' :: rest) = tokens [] rest := by
  simp [tokens, flushWord, show wordChar ' ' = false by decide]

/-- A line with no semicolon has no comment. -/
theorem stripComment_eq (line : List Char) (h : ∀ c ∈ line, c ≠ ';') : stripComment line = line := by
  rw [stripComment, List.takeWhile_eq_self_iff]
  intro c hc
  simpa using h c hc

/-! ### Register names -/

theorem globalName_all (r : GlobalReg) : (globalName r).toList.all (fun c => wordChar c && c != ';') = true := by
  cases r <;> decide +kernel

theorem globalName_chars (r : GlobalReg) : ∀ c ∈ (globalName r).toList, wordChar c = true ∧ c ≠ ';' := by
  simpa using globalName_all r

theorem channelName_all (r : ChannelReg) : (channelName r).toList.all (fun c => wordChar c && c != ';') = true := by
  cases r <;> decide +kernel

theorem channelName_chars (r : ChannelReg) : ∀ c ∈ (channelName r).toList, wordChar c = true ∧ c ≠ ';' := by
  simpa using channelName_all r

theorem channelOf_digitChar : ∀ c : ChanIx, channelOf (Nat.digitChar c.toNat) = some c := by decide

theorem channelText_toList (c : ChanIx) (r : ChannelReg) : (regText (.channel c r)).toList =
    'C' :: 'H' :: Nat.digitChar c.toNat :: '.' :: (channelName r).toList := by
  have h : c.toNat < 10 := by omega
  simp [regText, Nat.toDigits_of_lt_base h]

theorem channelText_chars (c : ChanIx) (r : ChannelReg) :
    ∀ x ∈ (regText (.channel c r)).toList, wordChar x = true ∧ x ≠ ';' := by
  intro x hx
  simp only [channelText_toList, List.mem_cons] at hx
  rcases hx with rfl | rfl | rfl | rfl | hx
  · decide
  · decide
  · exact wordChar_digitChar _ (by omega)
  · decide
  · exact channelName_chars r x hx

/-- The name of a register is one word. -/
theorem regText_chars (r : Reg) : ∀ c ∈ (regText r).toList, wordChar c = true ∧ c ≠ ';' := by
  cases r with
  | global r => exact globalName_chars r
  | channel c r => exact channelText_chars c r
  | raw a => exact hexText_chars a.toNat

theorem readReg_global (r : GlobalReg) : readReg (globalName r).toList = some (.global r) := by
  cases r <;> decide

theorem find_channelName (r : ChannelReg) :
    channelRegs.find? (fun q => (channelName q).toList == (channelName r).toList) = some r := by
  cases r <;> decide

theorem readReg_channel (c : ChanIx) (r : ChannelReg) :
    readReg (regText (.channel c r)).toList = some (.channel c r) := by
  simp only [channelText_toList, readReg, channelOf_digitChar, find_channelName]

/-- The text that the printer writes for a register reads as that register. -/
theorem readReg_regText (r : Reg) : readReg (regText r).toList = some r := by
  cases r with
  | global r => exact readReg_global r
  | channel c r => exact readReg_channel c r
  | raw a =>
    have h : a.toNat < 4096 := a.isLt
    simp only [regText, hexText_toList, readReg, digits_toDigits, if_pos h, BitVec.ofNat_toNat, BitVec.setWidth_eq]

theorem regText_ne_nil (r : Reg) : (regText r).toList ≠ [] := by
  cases r with
  | global r => cases r <;> decide +kernel
  | channel c r => simp [channelText_toList]
  | raw a => simp [regText, hexText_toList]

/-- The printer writes a raw offset only where no register name has it. -/
theorem regAt_raw {a b : Offset} (h : regAt a = .raw b) :
    a = b ∧ (a.extractLsb' 0 2 ≠ 0#2 ∨ (a.extractLsb' 5 7 ≠ 0#7 ∧ a.extractLsb' 9 3 ≠ 1#3)) := by
  unfold regAt at h
  by_cases h1 : a.extractLsb' 0 2 ≠ 0#2
  · simp only [h1, not_false_eq_true, if_true, Reg.raw.injEq, ne_eq] at h
    exact ⟨h, .inl h1⟩
  simp only [h1, if_false] at h
  by_cases h2 : a.extractLsb' 5 7 = 0#7
  · rw [if_pos h2] at h; cases h
  rw [if_neg h2] at h
  by_cases h3 : a.extractLsb' 9 3 = 1#3
  · rw [if_pos h3] at h; cases h
  rw [if_neg h3] at h; cases h
  exact ⟨rfl, .inr ⟨h2, h3⟩⟩

/-! ### Mnemonics -/

theorem suffixText_chars (sz : SizeSuffix) : ∀ c ∈ (suffixText sz).toList, wordChar c = true ∧ c ≠ ';' := by
  have h : (suffixText sz).toList.all (fun c => wordChar c && c != ';') = true := by cases sz <;> decide +kernel
  simpa using h

theorem readMnemonic_rd (sz : SizeSuffix) (ts : List Token) :
    readMnemonic ('r' :: 'd' :: (suffixText sz).toList) ts = readAccess false sz ts := by
  cases sz <;> rfl

theorem readMnemonic_wr (sz : SizeSuffix) (ts : List Token) :
    readMnemonic ('w' :: 'r' :: (suffixText sz).toList) ts = readAccess true sz ts := by
  cases sz <;> rfl

end Sys2Proof.Machine
end

