-- ==== Sys2Proof/Laws/Timebase.lean ====
section
/-! SUPPORT. What TICK_US can do, to the timebase and to one channel, and what RESET leaves (43_timebase.md). -/

namespace Sys2Proof.Machine

/-! ### A channel's part of a millisecond event -/

@[simp] theorem tickCheck_cfg (now : Word) (temp : Temp) (ch : Channel) : (tickCheck now temp ch).cfg = ch.cfg := by
  unfold tickCheck
  split <;> rfl

@[simp] theorem tickCheck_pulse (now : Word) (temp : Temp) (ch : Channel) : (tickCheck now temp ch).pulse = ch.pulse := by
  unfold tickCheck
  split <;> rfl

@[simp] theorem tickCheck_est (now : Word) (temp : Temp) (ch : Channel) : (tickCheck now temp ch).est = ch.est := by
  unfold tickCheck
  split <;> rfl

theorem tickCheck_ctl (now : Word) (temp : Temp) (ch : Channel) :
    (tickCheck now temp ch).ctl =
      if tickDue now ch then ctrlStep ch.cfg temp now (dist now ch.ctl.lastTick) { ch.ctl with lastTick := now }
      else ch.ctl := by
  unfold tickCheck
  split <;> rfl

@[simp] theorem channelMs_cfg (now : Word) (temp : Temp) (ch : Channel) : (channelMs now temp ch).cfg = ch.cfg := by
  simp [channelMs]

@[simp] theorem channelMs_pulse (now : Word) (temp : Temp) (ch : Channel) :
    (channelMs now temp ch).pulse = ch.pulse := by
  simp [channelMs]

theorem channelMs_est (now : Word) (temp : Temp) (ch : Channel) :
    (channelMs now temp ch).est =
      if windowDue now ch then
        { base := ch.pulse.count, rpm := windowRpm now (ch.pulse.count - ch.est.base) ch,
          delta := ch.pulse.count - ch.est.base, winEnd := now }
      else ch.est := by
  simp [channelMs, windowStep_est]

theorem channelMs_ctl (now : Word) (temp : Temp) (ch : Channel) :
    (channelMs now temp ch).ctl =
      if tickDue now ch then ctrlStep ch.cfg temp now (dist now ch.ctl.lastTick) { ch.ctl with lastTick := now }
      else ch.ctl := by
  simp [channelMs, tickCheck_ctl, tickDue]

/-! ### TICK_US -/

/-- A TICK_US that completes no millisecond. -/
theorem execTickUs_quiet {s : State} (h : s.presc.toNat ≠ 999) :
    execTickUs s = .next { s with nowUs := s.nowUs + 1#32, presc := s.presc + 1#10 } := by
  simp [execTickUs, Config.prescLast, h]

/-- A TICK_US that completes a millisecond. -/
theorem execTickUs_ms {s : State} (h : s.presc.toNat = 999) :
    execTickUs s =
      .next (msEvent { s with nowUs := s.nowUs + 1#32, presc := 0#10, nowMs := s.nowMs + 1#32 }) := by
  simp [execTickUs, Config.prescLast, h]

/-- Everything TICK_US can do to a channel: its part of a millisecond event, or nothing. -/
theorem tickUs_channel (s : State) (c : ChanIx) (hc : c.toNat < s.nch) :
    ∃ t, exec .tickUs s = .next t ∧ t.nch = s.nch ∧
      chanAt t c = if s.en = true ∧ s.presc.toNat = 999 then channelMs (s.nowMs + 1#32) s.temp (chanAt s c)
        else chanAt s c := by
  by_cases hp : s.presc.toNat = 999
  · refine ⟨_, execTickUs_ms hp, by rw [nch_msEvent]; rfl, ?_⟩
    cases he : s.en
    · rw [if_neg (by simp)]
      exact chanAt_congr (by rw [msEvent_chans]; simp) c
    · rw [if_pos ⟨rfl, hp⟩]
      exact chanAt_of_map (by rw [msEvent_chans]; simp) hc
  · exact ⟨_, execTickUs_quiet hp, rfl, by rw [if_neg (fun h => hp h.2)]; rfl⟩

/-- A TICK_US that runs a controller tick of channel `c`: its controller state is CtrlStep's (R202). -/
theorem tickUs_ctl {s : State} {c : ChanIx} (h : tickRuns s c) :
    ∃ t, exec .tickUs s = .next t ∧
      (chanAt t c).ctl =
        ctrlStep (chanAt s c).cfg s.temp (s.nowMs + 1#32) (s.nowMs + 1#32 - (chanAt s c).ctl.lastTick)
          { (chanAt s c).ctl with lastTick := s.nowMs + 1#32 } := by
  obtain ⟨hc, ⟨he, hp⟩, hd⟩ := h
  obtain ⟨t, ht, -, hch⟩ := tickUs_channel s c hc
  refine ⟨t, ht, ?_⟩
  rw [hch, if_pos ⟨he, hp⟩, channelMs_ctl,
    if_pos (show tickDue (s.nowMs + 1#32) (chanAt s c) = true from decide_eq_true hd)]
  rfl

/-- A TICK_US that ends a window of channel `c`: its estimate is WindowStep's (R140). -/
theorem tickUs_est {s : State} {c : ChanIx} (h : windowEnds s c) :
    ∃ t, exec .tickUs s = .next t ∧
      (chanAt t c).est =
        { base := (chanAt s c).pulse.count,
          rpm := windowRpm (s.nowMs + 1#32) ((chanAt s c).pulse.count - (chanAt s c).est.base) (chanAt s c),
          delta := (chanAt s c).pulse.count - (chanAt s c).est.base, winEnd := s.nowMs + 1#32 } := by
  obtain ⟨hc, ⟨he, hp⟩, hd⟩ := h
  obtain ⟨t, ht, -, hch⟩ := tickUs_channel s c hc
  refine ⟨t, ht, ?_⟩
  rw [hch, if_pos ⟨he, hp⟩, channelMs_est,
    if_pos (show windowDue (s.nowMs + 1#32) (chanAt s c) = true from decide_eq_true hd)]

end Sys2Proof.Machine
end

