-- ==== Sys2Proof/Tests/Slice0.lean ====
section
/-! SUPPORT. The model's own tests: ill-formed operations that WellFormed refuses, the decoding of every row of the opcode
table from a word of the spec's encoding, one-step tests from the vectors of 95_test_vectors.md, and for every statement with
hypotheses a state and operands that meet them. -/

namespace Sys2Proof.Tests

open Sys2Proof Sys2Proof.Machine

/-! ### WellFormed refuses -/

/-- EDGE on a channel that does not exist (R95): the boundary c = NCH. -/
theorem test_wellFormed_edge : wellFormed 2 (.edge 1#2) = true ∧ wellFormed 2 (.edge 2#2) = false := by decide

/-- The unmapped row at offsets where R93 finds a register, 0x01C and 0x27C, and just beside them, 0x020 and 0x400. -/
theorem test_wellFormed_unmapped :
    wellFormed 2 (.unmapped .rd 0x007#10) = false ∧ wellFormed 2 (.unmapped .rd 0x09F#10) = false ∧
      wellFormed 2 (.unmapped .rd 0x008#10) = true ∧ wellFormed 2 (.unmapped .rd 0x100#10) = true := by decide

/-- The misaligned row at an aligned offset. -/
theorem test_wellFormed_misaligned :
    wellFormed 2 (.misaligned .rd 0x204#12) = false ∧ wellFormed 2 (.misaligned .rd 0x205#12) = true := by decide

/-- The bad-size row with a word size. -/
theorem test_wellFormed_badSize :
    wellFormed 2 (.badSize .rd 2#2 0x204#12) = false ∧ wellFormed 2 (.badSize .rd 3#2 0x204#12) = true := by decide

/-! ### Decoding (30_encoding.md R92, R99; opcode_table.json) -/

/-- Reads of the global registers; the first word is written out bit by bit. -/
theorem test_decode_global_rd :
    decode 2 ⟨0b0010000000000000#16, 0#32⟩ = .ok .rdId ∧
      decode 2 ⟨0x2004#16, 0#32⟩ = .ok .rdCfg ∧
      decode 2 ⟨0x2008#16, 0#32⟩ = .ok .rdCtrl ∧
      decode 2 ⟨0x200C#16, 0#32⟩ = .ok .rdErr ∧
      decode 2 ⟨0x2010#16, 0#32⟩ = .ok .rdNowMs ∧
      decode 2 ⟨0x2014#16, 0#32⟩ = .ok .rdNowUs ∧
      decode 2 ⟨0x2018#16, 0#32⟩ = .ok .rdTemp ∧
      decode 2 ⟨0x201C#16, 0#32⟩ = .ok .rdPresc := by
  decide

/-- Writes of the global registers; the first word is written out bit by bit. -/
theorem test_decode_global_wr :
    decode 2 ⟨0b0110000000000000#16, 0x89ABCDEF#32⟩ = .ok (.wrId 0x89ABCDEF#32) ∧
      decode 2 ⟨0x6004#16, 0x89ABCDEF#32⟩ = .ok (.wrCfg 0x89ABCDEF#32) ∧
      decode 2 ⟨0x6008#16, 0x89ABCDEF#32⟩ = .ok (.wrCtrl 0x89ABCDEF#32) ∧
      decode 2 ⟨0x600C#16, 0x89ABCDEF#32⟩ = .ok (.wrErr 0x89ABCDEF#32) ∧
      decode 2 ⟨0x6010#16, 0x89ABCDEF#32⟩ = .ok (.wrNowMs 0x89ABCDEF#32) ∧
      decode 2 ⟨0x6014#16, 0x89ABCDEF#32⟩ = .ok (.wrNowUs 0x89ABCDEF#32) ∧
      decode 2 ⟨0x6018#16, 0x89ABCDEF#32⟩ = .ok (.wrTemp 0x89ABCDEF#32) ∧
      decode 2 ⟨0x601C#16, 0x89ABCDEF#32⟩ = .ok (.wrPresc 0x89ABCDEF#32) := by
  decide

/-- Reads of the config registers, of channel 1 where there is a channel field; the first word is written out bit by bit. -/
theorem test_decode_config_rd :
    decode 2 ⟨0b0010001010000000#16, 0#32⟩ = .ok (.rdChDebounceUs 1#2) ∧
      decode 2 ⟨0x2284#16, 0#32⟩ = .ok (.rdChWindowMs 1#2) ∧
      decode 2 ⟨0x2288#16, 0#32⟩ = .ok (.rdChTimeoutMs 1#2) ∧
      decode 2 ⟨0x228C#16, 0#32⟩ = .ok (.rdChPpr 1#2) ∧
      decode 2 ⟨0x2290#16, 0#32⟩ = .ok (.rdChPeriodMs 1#2) ∧
      decode 2 ⟨0x2294#16, 0#32⟩ = .ok (.rdChRate 1#2) ∧
      decode 2 ⟨0x2298#16, 0#32⟩ = .ok (.rdChAlpha 1#2) ∧
      decode 2 ⟨0x229C#16, 0#32⟩ = .ok (.rdChThresh 1#2) ∧
      decode 2 ⟨0x22A0#16, 0#32⟩ = .ok (.rdChMinOnMs 1#2) ∧
      decode 2 ⟨0x22A4#16, 0#32⟩ = .ok (.rdChMinOffMs 1#2) ∧
      decode 2 ⟨0x22A8#16, 0#32⟩ = .ok (.rdChKickDuty 1#2) ∧
      decode 2 ⟨0x22AC#16, 0#32⟩ = .ok (.rdChKickMs 1#2) ∧
      decode 2 ⟨0x22B0#16, 0#32⟩ = .ok (.rdChHoldMs 1#2) ∧
      decode 2 ⟨0x22B4#16, 0#32⟩ = .ok (.rdChSafe 1#2) ∧
      decode 2 ⟨0x22B8#16, 0#32⟩ = .ok (.rdChCurve0 1#2) ∧
      decode 2 ⟨0x22BC#16, 0#32⟩ = .ok (.rdChCurve1 1#2) ∧
      decode 2 ⟨0x22C0#16, 0#32⟩ = .ok (.rdChCurve2 1#2) ∧
      decode 2 ⟨0x22C4#16, 0#32⟩ = .ok (.rdChCurve3 1#2) ∧
      decode 2 ⟨0x22C8#16, 0#32⟩ = .ok (.rdChCurve4 1#2) := by
  decide

/-- Writes of the config registers, of channel 1 where there is a channel field; the first word is written out bit by bit. -/
theorem test_decode_config_wr :
    decode 2 ⟨0b0110001010000000#16, 0x89ABCDEF#32⟩ = .ok (.wrChDebounceUs 1#2 0x89ABCDEF#32) ∧
      decode 2 ⟨0x6284#16, 0x89ABCDEF#32⟩ = .ok (.wrChWindowMs 1#2 0x89ABCDEF#32) ∧
      decode 2 ⟨0x6288#16, 0x89ABCDEF#32⟩ = .ok (.wrChTimeoutMs 1#2 0x89ABCDEF#32) ∧
      decode 2 ⟨0x628C#16, 0x89ABCDEF#32⟩ = .ok (.wrChPpr 1#2 0x89ABCDEF#32) ∧
      decode 2 ⟨0x6290#16, 0x89ABCDEF#32⟩ = .ok (.wrChPeriodMs 1#2 0x89ABCDEF#32) ∧
      decode 2 ⟨0x6294#16, 0x89ABCDEF#32⟩ = .ok (.wrChRate 1#2 0x89ABCDEF#32) ∧
      decode 2 ⟨0x6298#16, 0x89ABCDEF#32⟩ = .ok (.wrChAlpha 1#2 0x89ABCDEF#32) ∧
      decode 2 ⟨0x629C#16, 0x89ABCDEF#32⟩ = .ok (.wrChThresh 1#2 0x89ABCDEF#32) ∧
      decode 2 ⟨0x62A0#16, 0x89ABCDEF#32⟩ = .ok (.wrChMinOnMs 1#2 0x89ABCDEF#32) ∧
      decode 2 ⟨0x62A4#16, 0x89ABCDEF#32⟩ = .ok (.wrChMinOffMs 1#2 0x89ABCDEF#32) ∧
      decode 2 ⟨0x62A8#16, 0x89ABCDEF#32⟩ = .ok (.wrChKickDuty 1#2 0x89ABCDEF#32) ∧
      decode 2 ⟨0x62AC#16, 0x89ABCDEF#32⟩ = .ok (.wrChKickMs 1#2 0x89ABCDEF#32) ∧
      decode 2 ⟨0x62B0#16, 0x89ABCDEF#32⟩ = .ok (.wrChHoldMs 1#2 0x89ABCDEF#32) ∧
      decode 2 ⟨0x62B4#16, 0x89ABCDEF#32⟩ = .ok (.wrChSafe 1#2 0x89ABCDEF#32) ∧
      decode 2 ⟨0x62B8#16, 0x89ABCDEF#32⟩ = .ok (.wrChCurve0 1#2 0x89ABCDEF#32) ∧
      decode 2 ⟨0x62BC#16, 0x89ABCDEF#32⟩ = .ok (.wrChCurve1 1#2 0x89ABCDEF#32) ∧
      decode 2 ⟨0x62C0#16, 0x89ABCDEF#32⟩ = .ok (.wrChCurve2 1#2 0x89ABCDEF#32) ∧
      decode 2 ⟨0x62C4#16, 0x89ABCDEF#32⟩ = .ok (.wrChCurve3 1#2 0x89ABCDEF#32) ∧
      decode 2 ⟨0x62C8#16, 0x89ABCDEF#32⟩ = .ok (.wrChCurve4 1#2 0x89ABCDEF#32) := by
  decide

/-- Reads of the status registers, of channel 1 where there is a channel field; the first word is written out bit by bit. -/
theorem test_decode_status_rd :
    decode 2 ⟨0b0010001011001100#16, 0#32⟩ = .ok (.rdChLastTick 1#2) ∧
      decode 2 ⟨0x22D0#16, 0#32⟩ = .ok (.rdChCount 1#2) ∧
      decode 2 ⟨0x22D4#16, 0#32⟩ = .ok (.rdChBase 1#2) ∧
      decode 2 ⟨0x22D8#16, 0#32⟩ = .ok (.rdChRpm 1#2) ∧
      decode 2 ⟨0x22DC#16, 0#32⟩ = .ok (.rdChDelta 1#2) ∧
      decode 2 ⟨0x22E0#16, 0#32⟩ = .ok (.rdChWinEnd 1#2) ∧
      decode 2 ⟨0x22E4#16, 0#32⟩ = .ok (.rdChLastPulseMs 1#2) ∧
      decode 2 ⟨0x22E8#16, 0#32⟩ = .ok (.rdChLastEdgeUs 1#2) ∧
      decode 2 ⟨0x22EC#16, 0#32⟩ = .ok (.rdChCmd 1#2) ∧
      decode 2 ⟨0x22F0#16, 0#32⟩ = .ok (.rdChOut 1#2) ∧
      decode 2 ⟨0x22F4#16, 0#32⟩ = .ok (.rdChTTrans 1#2) ∧
      decode 2 ⟨0x22F8#16, 0#32⟩ = .ok (.rdChKickEnd 1#2) ∧
      decode 2 ⟨0x22FC#16, 0#32⟩ = .ok (.rdChInvSince 1#2) := by
  decide

/-- Writes of the status registers, of channel 1 where there is a channel field; the first word is written out bit by bit. -/
theorem test_decode_status_wr :
    decode 2 ⟨0b0110001011001100#16, 0x89ABCDEF#32⟩ = .ok (.wrChLastTick 1#2 0x89ABCDEF#32) ∧
      decode 2 ⟨0x62D0#16, 0x89ABCDEF#32⟩ = .ok (.wrChCount 1#2 0x89ABCDEF#32) ∧
      decode 2 ⟨0x62D4#16, 0x89ABCDEF#32⟩ = .ok (.wrChBase 1#2 0x89ABCDEF#32) ∧
      decode 2 ⟨0x62D8#16, 0x89ABCDEF#32⟩ = .ok (.wrChRpm 1#2 0x89ABCDEF#32) ∧
      decode 2 ⟨0x62DC#16, 0x89ABCDEF#32⟩ = .ok (.wrChDelta 1#2 0x89ABCDEF#32) ∧
      decode 2 ⟨0x62E0#16, 0x89ABCDEF#32⟩ = .ok (.wrChWinEnd 1#2 0x89ABCDEF#32) ∧
      decode 2 ⟨0x62E4#16, 0x89ABCDEF#32⟩ = .ok (.wrChLastPulseMs 1#2 0x89ABCDEF#32) ∧
      decode 2 ⟨0x62E8#16, 0x89ABCDEF#32⟩ = .ok (.wrChLastEdgeUs 1#2 0x89ABCDEF#32) ∧
      decode 2 ⟨0x62EC#16, 0x89ABCDEF#32⟩ = .ok (.wrChCmd 1#2 0x89ABCDEF#32) ∧
      decode 2 ⟨0x62F0#16, 0x89ABCDEF#32⟩ = .ok (.wrChOut 1#2 0x89ABCDEF#32) ∧
      decode 2 ⟨0x62F4#16, 0x89ABCDEF#32⟩ = .ok (.wrChTTrans 1#2 0x89ABCDEF#32) ∧
      decode 2 ⟨0x62F8#16, 0x89ABCDEF#32⟩ = .ok (.wrChKickEnd 1#2 0x89ABCDEF#32) ∧
      decode 2 ⟨0x62FC#16, 0x89ABCDEF#32⟩ = .ok (.wrChInvSince 1#2 0x89ABCDEF#32) := by
  decide

/-- EDGE on channel 1, TICK_US and RESET, bit by bit (R92). -/
theorem test_decode_events :
    decode 2 ⟨0b1000000000000001#16, 0#32⟩ = .ok (.edge 1#2) ∧ decode 2 ⟨0b1100000000000000#16, 0#32⟩ = .ok .tickUs ∧
      decode 2 ⟨0b1100000000000001#16, 0#32⟩ = .ok .reset := by decide

/-- The error-class rows (R96), bit by bit: RD 0x020, WR 0x202, RD.r 0x250, WR.b 0x21C. -/
theorem test_decode_errors :
    decode 2 ⟨0b0010000000100000#16, 0#32⟩ = .ok (.unmapped .rd 0b0000001000#10) ∧
      decode 2 ⟨0b0110001000000010#16, 7#32⟩ = .ok (.misaligned (.wr 7#32) 0x202#12) ∧
      decode 2 ⟨0b0011001001010000#16, 0#32⟩ = .ok (.badSize .rd 3#2 0x250#12) ∧
      decode 2 ⟨0b0100001000011100#16, 7#32⟩ = .ok (.badSize (.wr 7#32) 0#2 0x21C#12) := by decide

/-- Words that name no event (R95): c = NCH, a nonzero reserved field, a SYS word above RESET. -/
theorem test_decode_refused :
    decode 2 ⟨0x8002#16, 0#32⟩ = .error .noSuchTachInput ∧ decode 2 ⟨0x8004#16, 0#32⟩ = .error .noSuchTachInput ∧
      decode 2 ⟨0x9000#16, 0#32⟩ = .error .noSuchTachInput ∧ decode 2 ⟨0xC002#16, 0#32⟩ = .error .noSuchSystemEvent ∧
      decode 2 ⟨0xFFFF#16, 0#32⟩ = .error .noSuchSystemEvent := by decide

/-- A table row's bits: the word in bits 15..0, WDATA above it (log 7). -/
theorem test_decodeTableWord :
    decodeTableWord 48 0x1F46204 = some (.wrChWindowMs 0#2 500#32) ∧ decodeTableWord 16 0x2258 = some (.rdChRpm 0#2) := by
  decide

/-! ### The assembler (95_test_vectors.md sections 2, 3 and 7) -/

theorem test_assemble_value :
    assembleLine "wr CH0.SAFE, pair(pct(1), pct(80))".toList = some [⟨0x6234#16, 0x01005000#32⟩] ∧
      assembleLine "settemp -20".toList = some [⟨0x6018#16, 0x0001EC00#32⟩] := by decide

theorem test_assemble_lines :
    assembleText "start\n; comment\nrd.b CH0.COUNT\nedge 1\nwait_us 2" =
      some [⟨0x6008#16, 1#32⟩, ⟨0x0250#16, 0#32⟩, ⟨0x8001#16, 0#32⟩, ⟨0xC000#16, 0#32⟩, ⟨0xC000#16, 0#32⟩] := by decide

theorem test_render : render (printLine (.rdChDebounceUs 1#2)) = "rd CH1.DEBOUNCE_US" := by decide

/-- A write's value as the printer spells it, and read back (log 12). -/
theorem test_render_value :
    render (printLine (.wrTemp 0x0001EC00#32)) = "wr TEMP, 0x1ec00" ∧
      assembleLine "wr TEMP, 0x1ec00".toList = some [encode (.wrTemp 0x0001EC00#32)] := by decide

/-! ### Small states -/

/-- The reference configuration RC (95_test_vectors.md section 2). -/
def rc : ChanConfig :=
  { debounceUs := 500#32, windowMs := 500#32, timeoutMs := 2000#32, ppr := 2#8, periodMs := 100#31, rate := 5120#24,
    alpha := 32768#17, offBelow := 5120#16, onAbove := 7680#16, minOnMs := 3000#32, minOffMs := 3000#32,
    kickDuty := 25600#16, kickMs := 1000#31, holdMs := 5000#32, safeDuty := 20480#16, actEps := 256#16,
    curve0 := ⟨7680#16, 0#16⟩, curve1 := ⟨10240#16, 5120#16⟩, curve2 := ⟨12800#16, 12800#16⟩,
    curve3 := ⟨14080#16, 25600#16⟩, curve4 := ⟨15360#16, 25600#16⟩ }

/-- A channel with configuration `k`, as after reset but for it. -/
def chan (k : ChanConfig) : Channel := { Channel.reset with cfg := k }

/-- A running block with these channels. -/
def running (chs : List Channel) : State := { State.resetWith 0 with en := true, chans := chs }

/-- `running`, where the next TICK_US is the millisecond event that makes NOW_MS `nm`. -/
def eventAt (nm : Word) (temp : Temp) (chs : List Channel) : State :=
  { running chs with presc := 999#10, nowMs := nm - 1#32, temp := temp }

/-- A channel with configuration `k` and controller state `u`, whose last tick was at 0. -/
def chanCtl (k : ChanConfig) (f : CtlState → CtlState) : Channel := { chan k with ctl := f Channel.reset.ctl }

/-- The state after an operation that answers next. -/
def after (i : Instr) (s : State) : Option State :=
  match exec i s with
  | .next t => some t
  | .fault _ => none
  | .refused _ => none

/-- Channel 0 after an operation that answers next. -/
def chan0After (i : Instr) (s : State) : Option Channel := (after i s).bind (fun t => t.chans[0]?)

/-! ### One-step tests -/

/-- V-E-1: a distance equal to DEBOUNCE_US is rejected. -/
theorem test_edge_rejected :
    (chan0After (.edge 0#2)
        { running [{ chan rc with pulse := ⟨5#32, 10000#32, 9#32⟩ }] with nowUs := 10500#32, nowMs := 10#32 }).map
      (fun ch => ch.pulse) = some ⟨5#32, 10000#32, 9#32⟩ := by decide

/-- V-E-6: NOW_US wrapped since the last edge, distance 512: accepted. -/
theorem test_edge_accepted :
    (chan0After (.edge 0#2)
        { running [{ chan rc with pulse := ⟨5#32, 4294967040#32, 69999#32⟩ }] with
          nowUs := 256#32, nowMs := 70000#32 }).map
      (fun ch => ch.pulse) = some ⟨6#32, 256#32, 70000#32⟩ := by decide

/-- V-T-9: a window and a tick in one millisecond event. -/
theorem test_tick_window_and_control :
    (chan0After .tickUs
        (eventAt 500#32 ⟨13312#16, true⟩
          [{ chanCtl rc (fun u => { u with lastTick := 400#32 }) with pulse := ⟨8#32, 0#32, 0#32⟩ }])).map
      (fun ch => (ch.est, ch.ctl.lastTick, ch.ctl.raw)) = some (⟨8#32, 480#32, 8#32, 500#32⟩, 500#32, 17920#16) := by
  decide +kernel

/-- V-T-3: NOW_US wraps and NOW_MS does not. -/
theorem test_tick_wrap :
    (after .tickUs { running [] with presc := 294#10, nowUs := 4294967295#32, nowMs := 4294967#32 }).map
      (fun t => (t.presc, t.nowUs, t.nowMs)) = some (295#10, 0#32, 4294967#32) := by decide

/-- V-R-1: RESET from a running state, the channel and the error gone. -/
theorem test_reset :
    (after .reset
        { eventAt 3100#32 ⟨13312#16, true⟩ [chan rc, chan rc] with err := ⟨some .roWrite, 0#12, true, false⟩ }) =
      some (State.resetWith 2) := by decide

/-- V-R-2: a start at NOW_MS = 3110, NOW_US = 3110250 keeps the configuration and stamps the runtime state. -/
theorem test_start :
    (chan0After (.wrCtrl 1#32)
        { State.resetWith 0 with
          nowMs := 3110#32, nowUs := 3110250#32, chans := [chanCtl rc (fun u => { u with latch := .on, filt := 7936#16 })] }).map
      (fun ch => (ch.cfg, ch.pulse.lastEdgeUs, ch.est.rpm, ch.ctl.latch, ch.ctl.filt, ch.ctl.tTrans)) =
      some (rc, 3110250#32, 0xFFFFFFFF#32, .off, 0#16, 3110#32) := by decide

/-- V-B-22: TEMP takes VALID and T, and ignores the reserved bits. -/
theorem test_wr_temp : (after (.wrTemp 0xFFFFFFFF#32) (running [])).map (fun t => tempWord t.temp) = some 0x0001FFFF#32 := by
  decide

/-- V-B-25, V-B-32, V-B-35, V-B-38: the four bus errors, as ERR reads after the first access from reset with NCH = 1. -/
theorem test_bus_errors :
    (after (.badSize .rd 0#2 0x250#12) (State.resetWith 1)).map (fun t => errWord t.err) = some 0x00025002#32 ∧
      (after (.misaligned .rd 0x283#12) (State.resetWith 1)).map (fun t => errWord t.err) = some 0x00028303#32 ∧
      (after (.rdChDebounceUs 1#2) (State.resetWith 1)).map (fun t => errWord t.err) = some 0x00028001#32 ∧
      (after (.wrChRpm 0#2 0#32) (State.resetWith 1)).map (fun t => errWord t.err) = some 0x00125804#32 := by decide

/-- V-B-41: a later error only sets OVF. -/
theorem test_err_overflow :
    (after (.wrId 5#32) { State.resetWith 1 with err := ⟨some .size, 0x258#12, false, false⟩ }).map
      (fun t => errWord t.err) = some 0x80025802#32 := by decide

/-- V-B-2, V-B-7, V-B-8, V-B-10, V-B-12: legalised writes, as the register reads back. -/
theorem test_wr_timing :
    (chan0After (.wrChWindowMs 0#2 0#32) (State.resetWith 1)).map (fun ch => channelWord ch 1) = some 1#32 ∧
      (chan0After (.wrChPpr 0#2 0x100#32) (State.resetWith 1)).map (fun ch => channelWord ch 3) = some 1#32 ∧
      (chan0After (.wrChPeriodMs 0#2 0x80000000#32) (State.resetWith 1)).map (fun ch => channelWord ch 4) = some 1#32 ∧
      (chan0After (.wrChRate 0#2 0xFFFFFFFF#32) (State.resetWith 1)).map (fun ch => channelWord ch 5) = some 0xFFFFFF#32 ∧
      (chan0After (.wrChAlpha 0#2 0x10001#32) (State.resetWith 1)).map (fun ch => channelWord ch 6) = some 0x10000#32 := by
  decide

/-- V-B-14, V-B-16, V-B-18, V-B-19, V-B-21: capped writes, as the register reads back. -/
theorem test_wr_duties :
    (chan0After (.wrChThresh 0#2 0xFFFFFFFF#32) (State.resetWith 1)).map (fun ch => channelWord ch 7) =
        some 0x64006400#32 ∧
      (chan0After (.wrChKickDuty 0#2 0xFFFF6401#32) (State.resetWith 1)).map (fun ch => channelWord ch 10) =
        some 0x6400#32 ∧
      (chan0After (.wrChKickMs 0#2 0xFFFFFFFF#32) (State.resetWith 1)).map (fun ch => channelWord ch 11) =
        some 0x7FFFFFFF#32 ∧
      (chan0After (.wrChSafe 0#2 0xFFFFFFFF#32) (State.resetWith 1)).map (fun ch => channelWord ch 13) =
        some 0x64006400#32 ∧
      (chan0After (.wrChCurve4 0#2 0x6401EC00#32) (State.resetWith 1)).map (fun ch => channelWord ch 18) =
        some 0x6400EC00#32 := by decide

/-- V-B-42: CMD and the tick's stamp, read after one tick of RC at 52 degrees C; P3: OUT with the kick in force. -/
theorem test_rd_packed :
    (after (.rdChCmd 0#2) (running [chanCtl rc (fun u => { u with raw := 17920#16, filt := 256#16 })])).map
        (fun t => t.port) = some (some ⟨.ok, some 0x01004600#32⟩) ∧
      (after (.rdChOut 0#2)
          (running [chanCtl rc (fun u =>
            { u with outq := 25600#16, out := 100#7, active := true, latch := .on, kick := true })])).map
        (fun t => t.port) = some (some ⟨.ok, some 0x07646400#32⟩) := by decide

/-- V-W-3, V-W-4, V-W-5, V-W-6: rpm_of at a half, with one rounding, below a half, and saturated. -/
theorem test_rpmOf :
    rpmOf 1 20000 2 = 2 ∧ rpmOf 1 7 2 = 4286 ∧ rpmOf 1 60000 3 = 0 ∧ rpmOf 4294967295 1 1 = 2147483647 := by
  decide +kernel

/-- V-W-10, V-W-12: zero delta after the timeout; COUNT wrapped past BASE. -/
theorem test_window :
    (windowStep 2501#32 { chan rc with pulse := ⟨4#32, 0#32, 500#32⟩, est := ⟨4#32, 120#32, 0#32, 2001#32⟩ }).est =
        ⟨4#32, 0#32, 0#32, 2501#32⟩ ∧
      (windowStep 1000#32 { chan rc with pulse := ⟨2#32, 0#32, 0#32⟩, est := ⟨4294967294#32, 0#32, 0#32, 500#32⟩ }).est =
        ⟨2#32, 240#32, 4#32, 1000#32⟩ := by
  decide +kernel

/-- V-C-5, V-C-7, V-C-12: the RC curve inside a segment, one LSB below a breakpoint, at the smallest temperature. -/
theorem test_curve : curve rc 11648 = 9344 ∧ curve rc 14079 = 25590 ∧ curve rc (-32768) = 0 := by decide

/-- V-C-13, V-C-14, V-C-15: ties away from zero on both sides, and a curve that does not rise in X. -/
theorem test_curve_ties :
    curve { rc with curve0 := ⟨0#16, 0#16⟩, curve1 := ⟨1#16, 0#16⟩, curve2 := ⟨3#16, 1#16⟩ } 2 = 1 ∧
      curve { rc with curve0 := ⟨0#16, 1#16⟩, curve1 := ⟨1#16, 1#16⟩, curve2 := ⟨3#16, 0#16⟩ } 2 = 0 ∧
      curve { rc with curve0 := ⟨100#16, 1000#16⟩, curve1 := ⟨50#16, 2000#16⟩, curve2 := ⟨200#16, 3000#16⟩ } 150 =
        2667 := by decide

/-- V-C-18, V-C-19: the hold at HOLD_MS and one millisecond beyond it. -/
theorem test_tempStep :
    (tempStep rc ⟨0#16, false⟩ 5800#32 { Channel.reset.ctl with raw := 17920#16, inv := true, invSince := 800#32 }).raw =
        17920#16 ∧
      (tempStep rc ⟨0#16, false⟩ 5801#32 { Channel.reset.ctl with raw := 17920#16, inv := true, invSince := 800#32 }).raw =
        20480#16 := by decide

/-- V-C-24, V-C-26, V-C-27: a late tick, a step of -1, and a step rounded up. -/
theorem test_filterStep :
    (filterStep rc 101#32 { Channel.reset.ctl with raw := 17920#16 }).filt = 259#16 ∧
      (filterStep rc 100#32 { Channel.reset.ctl with raw := 0#16, filt := 1#16 }).filt = 0#16 ∧
      (filterStep rc 100#32 { Channel.reset.ctl with raw := 17920#16, filt := 17917#16 }).filt = 17919#16 := by decide

/-- V-C-33 and V-C-36: the latch turns ON with a kick, and OFF. -/
theorem test_latch_and_output :
    (ctrlStep rc ⟨0#16, false⟩ 3000#32 100#32
        { Channel.reset.ctl with raw := 7680#16, filt := 4000#16, inv := true, invSince := 3000#32 }).outq = 25600#16 ∧
      (ctrlStep rc ⟨0#16, false⟩ 9000#32 100#32
        { Channel.reset.ctl with
          raw := 5119#16, filt := 4000#16, inv := true, invSince := 9000#32, latch := .on, tTrans := 6000#32,
          kickEnd := 7000#32 }).latch = .off := by decide

/-- V-C-39: the kick is over exactly at KICK_END. -/
theorem test_kick_end :
    (ctrlStep rc ⟨0#16, false⟩ 4000#32 100#32
        { Channel.reset.ctl with
          raw := 17920#16, filt := 9000#16, inv := true, invSince := 4000#32, latch := .on, tTrans := 3000#32, kick := true,
          kickEnd := 4000#32 }).outq = 9256#16 := by decide

/-- E2 and the fetch: a word placed by withFetchWord is the operation the next step runs. -/
theorem test_withFetchWord :
    (match step (State.reset.withFetchWord 48 0x134006018) with
      | .next t => some (t.temp, t.pending)
      | .fault _ => none
      | .refused _ => none) = some (⟨0x3400#16, true⟩, []) := by decide

/-! ### The statements' hypotheses can be met -/

/-- Two channels with configuration RC, running. -/
def two : State := running [chan rc, chan rc]

/-- Four channels with configuration RC, running. -/
def four : State := running [chan rc, chan rc, chan rc, chan rc]

/-- A state whose next TICK_US is at NOW_MS = `nm` with this reading, one channel with controller state `f`. -/
def tickAt (nm : Word) (temp : Temp) (f : CtlState → CtlState) : State := eventAt nm temp [chanCtl rc f]

/-- A state whose next TICK_US, at NOW_MS = 500, ends the window of a channel with this count, base and RPM. -/
def windowAt (count base rpm lastPulse : Word) : State :=
  eventAt 500#32 ⟨0#16, false⟩ [{ chan rc with pulse := ⟨count, 0#32, lastPulse⟩, est := ⟨base, rpm, 0#32, 0#32⟩ }]

theorem witness_DecodeOfEncodeIsTheInstruction :
    wellFormed 4 (.edge 3#2) = true ∧ wellFormed 1 (.wrChCurve4 3#2 0xFFFFFFFF#32) = true ∧
      wellFormed 1 (.unmapped .rd 0x008#10) = true ∧ wellFormed 1 (.misaligned (.wr 7#32) 0xFFF#12) = true ∧
      wellFormed 1 (.badSize .rd 3#2 0x250#12) = true := by decide

theorem witness_EncodeOfDecodeIsTheWord :
    (decode 4 ⟨0x8003#16, 5#32⟩ = .ok (.edge 3#2) ∧ opKind 0x8003#16 ≠ 1#2) ∧
      decode 2 ⟨0x6204#16, 500#32⟩ = .ok (.wrChWindowMs 0#2 500#32) ∧ opKind 0x6204#16 = 1#2 := by decide

theorem witness_DecoderRefusesExactlyTheUnusedWords :
    decode 4 ⟨0x8003#16, 0#32⟩ = .ok (.edge 3#2) ∧ decode 5 ⟨0x8004#16, 0#32⟩ = .error .noSuchTachInput ∧
      decode 4 ⟨0xBFFF#16, 0#32⟩ = .error .noSuchTachInput ∧ decode 4 ⟨0xC001#16, 0#32⟩ = .ok .reset ∧
      decode 4 ⟨0xC002#16, 0#32⟩ = .error .noSuchSystemEvent ∧ decode 0 ⟨0x7FFF#16, 9#32⟩ =
        .ok (.badSize (.wr 9#32) 3#2 0xFFF#12) := by decide

/-- Raw offsets: of an access of another size between two registers, and of a write where no register stands. -/
theorem witness_PrintedOperationAssemblesBack :
    printLine (.badSize .rd 0#2 0x251#12) = .rd .b (.raw 0x251#12) ∧
      printLine (.unmapped (.wr 7#32) 0x008#10) = .wr .w (.raw 0x020#12) (.lit 7) := by decide

/-- One state for each clause: an operation, a refused EDGE, a refused SYS word, nothing presented. -/
theorem witness_StepRunsTheDecodedOperation :
    (({ two with pending := [⟨0x8001#16, 0#32⟩, ⟨0xC000#16, 0#32⟩] } : State).pending =
        ⟨0x8001#16, 0#32⟩ :: [⟨0xC000#16, 0#32⟩] ∧ decode two.nch ⟨0x8001#16, 0#32⟩ = .ok (.edge 1#2)) ∧
      (({ two with pending := [⟨0x8002#16, 0#32⟩] } : State).pending = ⟨0x8002#16, 0#32⟩ :: [] ∧
        decode two.nch ⟨0x8002#16, 0#32⟩ = .error .noSuchTachInput) ∧
      (({ two with pending := [⟨0xC002#16, 0#32⟩] } : State).pending = ⟨0xC002#16, 0#32⟩ :: [] ∧
        decode two.nch ⟨0xC002#16, 0#32⟩ = .error .noSuchSystemEvent) ∧
      two.pending = [] := by decide

theorem witness_NoOperationChoosesItsSuccessor : ∃ t, exec .tickUs { two with pending := [⟨0xC000#16, 0#32⟩] } = .next t :=
  ⟨_, rfl⟩

/-- Both clauses: the last channel that exists and the first that does not. -/
theorem witness_WellFormedOperationsAlwaysComplete :
    wellFormed two.nch (.edge 1#2) = true ∧ two.nch ≤ (2#2 : ChanIx).toNat := by decide

theorem witness_EveryStepKeepsTheStateLegal :
    State.Legal { tickAt 100#32 ⟨13312#16, true⟩ id with pending := [⟨0xC000#16, 0#32⟩] } ∧
      ∃ t, step { tickAt 100#32 ⟨13312#16, true⟩ id with pending := [⟨0xC000#16, 0#32⟩] } = .next t :=
  ⟨by decide, _, rfl⟩

theorem witness_ResetStateHoldsTheResetValues :
    Channel.reset ∈ (State.resetWith 1).chans ∧ 0 < 8 ∧ 7 < 8 ∧ State.reset.en = false := by decide

theorem witness_ResetStateHoldsTheResetValues_start :
    ∃ t, exec (.wrCtrl 1#32) State.reset = .next t ∧ ∃ ch, ch ∈ t.chans := ⟨_, rfl, _, List.mem_cons_self⟩

theorem witness_GlobalReadsReturnTheRegisters : ∃ t, exec .tickUs two = .next t := ⟨_, rfl⟩

/-- Start, a repeated start, and a stop, with the other operand bits set. -/
theorem witness_WriteCtrlStartsAndStops :
    (State.reset.en = false ∧ (1#32 : Word).getLsbD 0 = true) ∧
      (two.en = true ∧ (0xFFFFFFFF#32 : Word).getLsbD 0 = true) ∧ (0xFFFFFFFE#32 : Word).getLsbD 0 = false := by decide

theorem witness_WriteErrClearsErr :
    ∃ t, exec (.wrErr 5#32) { two with err := ⟨some .size, 0x258#12, false, true⟩ } = .next t := ⟨_, rfl⟩

/-- The lowest and the highest channel of a block of four. -/
theorem witness_ConfigReadsReturnTheRegisters :
    four.chans[(0#2 : ChanIx).toNat]? = some (chan rc) ∧ four.chans[(3#2 : ChanIx).toNat]? = some (chan rc) := by decide

/-- The only channel of a block of one, and the last of a block of four. -/
theorem witness_TimingConfigWritesStoreLegalFields :
    (0#2 : ChanIx).toNat < (running [chan rc]).nch ∧ (3#2 : ChanIx).toNat < four.nch := by decide

theorem witness_DutyConfigWritesStoreLegalFields :
    (0#2 : ChanIx).toNat < (running [chan rc]).nch ∧ (3#2 : ChanIx).toNat < four.nch := by decide

/-- A successful write of a register beside the one read, which answers OK. -/
theorem witness_WritesLeaveEveryOtherRegister :
    opKind (encode (.wrChThresh 1#2 0x1E001400#32)).word = 1#2 ∧
      (∀ v, Instr.wrChThresh 1#2 0x1E001400#32 ≠ .wrCtrl v) ∧
      (∃ t, exec (.wrChThresh 1#2 0x1E001400#32) two = .next t ∧ t.port = some ⟨.ok, none⟩) ∧
      (0x298#12 : Offset).toNat / 4 ≠ (opOffset (encode (.wrChThresh 1#2 0x1E001400#32)).word).toNat / 4 :=
  ⟨by decide, nofun, ⟨_, rfl, rfl⟩, by decide⟩

/-- A write that errs, and offsets on both sides of ERR's. -/
theorem witness_WritesLeaveEveryOtherRegister_err :
    opKind (encode (.wrId 5#32)).word = 1#2 ∧ (∃ t, exec (.wrId 5#32) two = .next t ∧ t.port = some ⟨.err, none⟩) ∧
      (0x00B#12 : Offset).toNat / 4 ≠ 3 ∧ (0x010#12 : Offset).toNat / 4 ≠ 3 :=
  ⟨by decide, ⟨_, rfl, rfl⟩, by decide⟩

theorem witness_StatusReadsReturnTheRegisters :
    four.chans[(0#2 : ChanIx).toNat]? = some (chan rc) ∧ four.chans[(3#2 : ChanIx).toNat]? = some (chan rc) := by decide

theorem witness_StatusRegistersRejectWrites :
    (0#2 : ChanIx).toNat < (running [chan rc]).nch ∧ (3#2 : ChanIx).toNat < four.nch := by decide

/-- One word for each clause in a block of four channels: 0x7FFF SIZE, 0x63FF MISALIGN, 0x2400 UNMAPPED, 0x624C RO_WRITE,
0x6248 and 0x23FC OK. -/
theorem witness_BusErrorsFollowTheirPriority :
    four.nch ≤ 4 ∧ ({ four with pending := [⟨0x7FFF#16, 0#32⟩] } : State).pending = ⟨0x7FFF#16, 0#32⟩ :: [] ∧
      (0x7FFF < 0x8000 ∧ 0x7FFF / 0x1000 % 4 ≠ 2) ∧
      (0x63FF / 0x1000 % 4 = 2 ∧ 0x63FF % 0x1000 % 4 ≠ 0) ∧
      (0x2400 / 0x1000 % 4 = 2 ∧ 0x2400 % 0x1000 % 4 = 0 ∧ ¬ registerAt four.nch 0x400#12) ∧
      (0x624C / 0x1000 % 4 = 2 ∧ registerAt four.nch 0x24C#12 ∧ readOnlyAt 0x24C#12 ∧ 0x4000 ≤ 0x624C) ∧
      (registerAt four.nch 0x248#12 ∧ ¬ readOnlyAt 0x248#12) ∧
      (registerAt four.nch 0x3FC#12 ∧ ¬ 0x4000 ≤ 0x23FC) := by decide

/-- The first and the last register of the first channel that is absent, in both directions. -/
theorem witness_AbsentChannelsAreUnmapped :
    (wellFormed two.nch (.rdChDebounceUs 2#2) = true ∧ two.nch ≤ (2#2 : ChanIx).toNat ∧
        (encode (.rdChDebounceUs 2#2)).word.toNat = 0x2200 + 0x80 * (2#2 : ChanIx).toNat + 4 * (0#5 : BitVec 5).toNat) ∧
      (wellFormed two.nch (.wrChInvSince 3#2 7#32) = true ∧ two.nch ≤ (3#2 : ChanIx).toNat ∧
        (encode (.wrChInvSince 3#2 7#32)).word.toNat =
          0x6200 + 0x80 * (3#2 : ChanIx).toNat + 4 * (31#5 : BitVec 5).toNat) := by decide

theorem witness_EveryAccessIsTheEnvelope :
    (wellFormed two.nch (.wrChRate 1#2 7#32) = true ∧ agentOf (.wrChRate 1#2 7#32) = .host) ∧
      (wellFormed two.nch (.badSize .rd 0#2 0x250#12) = true ∧ agentOf (.badSize .rd 0#2 0x250#12) = .host) := by decide

/-- A second error, and the first one: each an access that answers ERR. -/
theorem witness_FirstErrorIsKept :
    (∃ t, exec (.wrId 5#32) { two with err := ⟨some .size, 0x258#12, false, false⟩ } = .next t ∧
        Instr.wrId 5#32 ≠ .reset ∧ (∀ v, Instr.wrId 5#32 ≠ .wrErr v) ∧ agentOf (.wrId 5#32) = .host ∧
        t.port.map (fun r => r.status) = some .err ∧ t.err = ⟨some .size, 0x258#12, false, true⟩) ∧
      (∃ t, exec (.misaligned .rd 0x283#12) two = .next t ∧ two.err.code = none ∧
        agentOf (.misaligned .rd 0x283#12) = .host ∧ t.port.map (fun r => r.status) = some .err ∧
        t.err = ⟨some .misalign, 0x283#12, false, false⟩) :=
  ⟨⟨_, rfl, nofun, nofun, by decide, rfl, rfl⟩, ⟨_, rfl, rfl, by decide, rfl, rfl⟩⟩

/-- A read that succeeds and one that errs. -/
theorem witness_ReadsHaveNoSideEffect :
    (opKind (encode (.rdChCount 1#2)).word = 0#2 ∧ ∃ t, exec (.rdChCount 1#2) two = .next t ∧
        t.port = some ⟨.ok, some 0#32⟩) ∧
      (opKind (encode (.rdChCount 2#2)).word = 0#2 ∧ ∃ t, exec (.rdChCount 2#2) two = .next t ∧
        t.port = some ⟨.err, some 0#32⟩) :=
  ⟨⟨by decide, _, rfl, rfl⟩, ⟨by decide, _, rfl, rfl⟩⟩

/-- The decoded channel range at its end; a channel that exists, one microsecond beyond the debounce and at it. -/
theorem witness_EdgeFollowsTheDebounceTest :
    (3#2 : ChanIx).toNat < 4 ∧
      (({ two with nowUs := 501#32 } : State).chans[(1#2 : ChanIx).toNat]? = some (chan rc) ∧
        (chan rc).cfg.debounceUs.toNat < ((501#32 : Word).toNat + 4294967296 - (chan rc).pulse.lastEdgeUs.toNat) %
          4294967296) ∧
      ¬ (chan rc).cfg.debounceUs.toNat < ((500#32 : Word).toNat + 4294967296 - (chan rc).pulse.lastEdgeUs.toNat) %
          4294967296 := by decide

theorem witness_SecondEdgeInAMicrosecondIsRejected :
    ∃ t, exec (.edge 1#2) { two with nowUs := 501#32 } = .next t := ⟨_, rfl⟩

theorem witness_EdgesOfDifferentChannelsCommute :
    (0#2 : ChanIx) ≠ 3#2 ∧ (0#2 : ChanIx).toNat < four.nch ∧ (3#2 : ChanIx).toNat < four.nch := by decide

theorem witness_TickCountsTheTimebase :
    ({ two with presc := 998#10 } : State).presc.toNat ≠ 999 ∧
      (({ State.reset with presc := 999#10 } : State).presc.toNat = 999 ∧
        ({ State.reset with presc := 999#10 } : State).en = false) ∧
      (({ two with presc := 999#10 } : State).presc.toNat = 999 ∧
        ({ two with presc := 999#10 } : State).en = true) := by decide

/-- A millisecond event, an order that is not the ascending one, and a stopped block at a full prescaler. -/
theorem witness_MsEventIsTheLoopInAnyOrder :
    msEventDue (eventAt 100#32 ⟨13312#16, true⟩ [chan rc, chan rc]) ∧
      [1, 0].Perm (List.range (eventAt 100#32 ⟨13312#16, true⟩ [chan rc, chan rc]).nch) ∧
      (({ State.reset with presc := 999#10 } : State).en = false ∧
        ({ State.reset with presc := 999#10 } : State).presc.toNat = 999) := by decide

theorem witness_CountersCountTheTicks :
    .reset ∉ [Instr.tickUs, .edge 0#2, .tickUs] ∧
      ∃ t, runOps [.tickUs, .edge 0#2, .tickUs] (State.resetWith 1) = some t := ⟨by decide, _, rfl⟩

theorem witness_StoppedBlockOnlyCountsTime :
    State.reset.en = false ∧ (3#2 : ChanIx).toNat < State.reset.nch := by decide

/-- A window that ends, exactly at WINDOW_MS; one a millisecond early; and an operation that is no TICK_US. -/
theorem witness_WindowTakesTheDelta :
    ((0#2 : ChanIx).toNat < (windowAt 8#32 4#32 0#32 0#32).nch ∧ windowEnds (windowAt 8#32 4#32 0#32 0#32) 0#2) ∧
      ¬ windowEnds (eventAt 499#32 ⟨0#16, false⟩ [chan rc]) 0#2 ∧
      (Instr.edge 0#2 ≠ .tickUs ∧ restarts (.edge 0#2) (windowAt 8#32 4#32 0#32 0#32) = false ∧
        ∃ r, exec (.edge 0#2) (windowAt 8#32 4#32 0#32 0#32) = .next r) :=
  ⟨by decide, by decide, by decide, by decide, _, rfl⟩

/-- COUNT wrapped past BASE: the delta is 4. -/
theorem witness_WindowRpmIsTheNearestInteger :
    windowEnds (windowAt 2#32 4294967294#32 0#32 0#32) 0#2 ∧
      (chanAt (windowAt 2#32 4294967294#32 0#32 0#32) 0#2).cfg.Legal ∧
      (2#32 : Word).toNat + 4294967296 - (4294967294#32 : Word).toNat = 4 ∧ 4 % 4294967296 ≠ 0 := by decide

/-- No new edge, at TIMEOUT_MS since the last pulse and one millisecond beyond it. -/
theorem witness_ZeroDeltaWindowRetainsOrStops :
    (windowEnds (windowAt 4#32 4#32 120#32 4294965796#32) 0#2 ∧
        ¬ (chan rc).cfg.timeoutMs.toNat < (500#32 - (4294965796#32 : Word)).toNat) ∧
      (windowEnds (windowAt 4#32 4#32 120#32 4294965795#32) 0#2 ∧
        (chan rc).cfg.timeoutMs.toNat < (500#32 - (4294965795#32 : Word)).toNat) ∧
      (chanAt (windowAt 4#32 4#32 120#32 4294965795#32) 0#2).pulse.count =
        (chanAt (windowAt 4#32 4#32 120#32 4294965795#32) 0#2).est.base := by decide

theorem witness_NoWindowMakesRpmUnknown :
    ∃ t, exec .tickUs (eventAt 499#32 ⟨0#16, false⟩ [chan rc]) = .next t ∧
      restarts .tickUs (eventAt 499#32 ⟨0#16, false⟩ [chan rc]) = false ∧
      (0#2 : ChanIx).toNat < (eventAt 499#32 ⟨0#16, false⟩ [chan rc]).nch ∧ (chanAt t 0#2).est.rpm = 0xFFFFFFFF#32 :=
  ⟨_, rfl, by decide, by decide, by decide⟩

/-- An edge, and the window that takes it. -/
theorem witness_EveryAcceptedEdgeIsInOneDelta :
    ∃ t n, (0#2 : ChanIx).toNat < ({ windowAt 8#32 4#32 0#32 0#32 with nowUs := 501#32 } : State).nch ∧
      runKeeps [.edge 0#2, .tickUs] { windowAt 8#32 4#32 0#32 0#32 with nowUs := 501#32 } = true ∧
      runOps [.edge 0#2, .tickUs] { windowAt 8#32 4#32 0#32 0#32 with nowUs := 501#32 } = some t ∧
      n = tallyOf 0#2 [.edge 0#2, .tickUs] { windowAt 8#32 4#32 0#32 0#32 with nowUs := 501#32 }
        ⟨0#32, 0#32, 8#32 - 4#32⟩ ∧ n.accepted = 1#32 ∧ n.deltas = 5#32 := by
  refine ⟨_, _, ?_, ?_, rfl, rfl, ?_, ?_⟩ <;> decide +kernel

/-- A tick due exactly at PERIOD_MS, and one a millisecond early. -/
theorem witness_TicksRunWhenThePeriodHasPassed :
    tickRuns (tickAt 100#32 ⟨0#16, false⟩ id) 0#2 ∧ ¬ tickRuns (tickAt 99#32 ⟨0#16, false⟩ id) 0#2 := by decide

/-- The temperatures where the clauses meet: at X_0 and above it, and at each later breakpoint and below it. -/
theorem witness_ValidTemperatureSetsTheCurveDuty :
    (tickRuns (tickAt 100#32 ⟨7680#16, true⟩ id) 0#2 ∧ (tickAt 100#32 ⟨7680#16, true⟩ id).temp.valid = true) ∧
      (tickRuns (tickAt 100#32 ⟨7681#16, true⟩ id) 0#2 ∧ tickRuns (tickAt 100#32 ⟨10239#16, true⟩ id) 0#2) ∧
      (tickRuns (tickAt 100#32 ⟨10240#16, true⟩ id) 0#2 ∧ tickRuns (tickAt 100#32 ⟨12799#16, true⟩ id) 0#2) ∧
      (tickRuns (tickAt 100#32 ⟨12800#16, true⟩ id) 0#2 ∧ tickRuns (tickAt 100#32 ⟨14079#16, true⟩ id) 0#2) ∧
      (tickRuns (tickAt 100#32 ⟨14080#16, true⟩ id) 0#2 ∧ tickRuns (tickAt 100#32 ⟨15359#16, true⟩ id) 0#2) ∧
      tickRuns (tickAt 100#32 ⟨15360#16, true⟩ id) 0#2 := by decide

/-- The duties of those clauses: the curve at the points where they meet. -/
theorem witness_ValidTemperatureSetsTheCurveDuty_values :
    curve rc 7680 = 0 ∧ curve rc 7681 = 2 ∧ curve rc 10240 = 5120 ∧ curve rc 12800 = 12800 ∧ curve rc 15360 = 25600 := by
  decide

/-- The hold at HOLD_MS since INV_SINCE, and a millisecond beyond it. -/
theorem witness_InvalidTemperatureHoldsThenFallsBack :
    (tickRuns (tickAt 5800#32 ⟨0#16, false⟩ (fun u => { u with inv := true, invSince := 800#32 })) 0#2 ∧
        (tickAt 5800#32 ⟨0#16, false⟩ id).temp.valid = false ∧ ¬ rc.holdMs.toNat < (5800#32 - 800#32 : Word).toNat) ∧
      (tickRuns (tickAt 5801#32 ⟨0#16, false⟩ (fun u => { u with inv := true, invSince := 800#32 })) 0#2 ∧
        rc.holdMs.toNat < (5801#32 - 800#32 : Word).toNat) := by decide

/-- FILT below the RAW that the tick sets, and above it. -/
theorem witness_FilterMovesTowardRaw :
    (tickRuns (tickAt 100#32 ⟨13312#16, true⟩ id) 0#2 ∧ rc.alpha.toNat ≤ 65536 ∧ curve rc 13312 = 17920) ∧
      tickRuns (tickAt 100#32 ⟨7680#16, true⟩ (fun u => { u with filt := 1#16 })) 0#2 := by decide

/-- The slowest legal smoothing and a rate of 1 unit a tick, over the whole range. -/
theorem witness_FilterReachesItsTarget :
    1 ≤ (1#17 : BitVec 17).toNat ∧ (1#17 : BitVec 17).toNat ≤ 65536 ∧ (25600#16 : BitVec 16).toNat ≤ 25600 ∧
      (∀ dt ∈ List.replicate 25600 1#32, 1000 ≤ (1000#24 : BitVec 24).toNat * (dt : Word).toNat) ∧
      25600 ≤ (List.replicate 25600 1#32).length := by
  refine ⟨by decide, by decide, by decide, fun dt h => ?_, Nat.le_of_eq List.length_replicate.symm⟩
  rw [List.eq_of_mem_replicate h]; decide

/-- OFF to ON at the dwell and the threshold, OFF kept a millisecond early, ON to OFF, and ON kept at the threshold. -/
theorem witness_LatchFollowsDwellAndThresholds :
    (tickRuns (tickAt 3000#32 ⟨0#16, false⟩ (fun u => { u with raw := 7680#16 })) 0#2 ∧
        tickRuns (tickAt 2999#32 ⟨0#16, false⟩ (fun u => { u with raw := 7680#16 })) 0#2) ∧
      (tickRuns (tickAt 3000#32 ⟨0#16, false⟩ (fun u => { u with raw := 5119#16, latch := .on })) 0#2 ∧
        tickRuns (tickAt 3000#32 ⟨0#16, false⟩ (fun u => { u with raw := 5120#16, latch := .on })) 0#2) := by decide

/-- A kick in force, one that is over at this tick, and a latch that is off. -/
theorem witness_OutputFollowsLatchAndKick :
    tickRuns (tickAt 4000#32 ⟨13312#16, true⟩ (fun u =>
        { u with latch := .on, tTrans := 3000#32, kick := true, kickEnd := 4001#32 })) 0#2 ∧
      tickRuns (tickAt 4000#32 ⟨13312#16, true⟩ (fun u =>
        { u with latch := .on, tTrans := 3000#32, kick := true, kickEnd := 4000#32 })) 0#2 ∧
      tickRuns (tickAt 4000#32 ⟨0#16, true⟩ id) 0#2 := by decide

/-- The tick that arms a kick, with KICK_MS 0 and 1: the kick is in force only with 1. -/
theorem witness_OutputFollowsLatchAndKick_armed :
    ((ctrlStep { rc with kickMs := 0#31 } ⟨13312#16, true⟩ 3000#32 100#32 Channel.reset.ctl).latch = .on ∧
        (ctrlStep { rc with kickMs := 0#31 } ⟨13312#16, true⟩ 3000#32 100#32 Channel.reset.ctl).kick = false) ∧
      (ctrlStep { rc with kickMs := 1#31 } ⟨13312#16, true⟩ 3000#32 100#32 Channel.reset.ctl).kick = true := by
  decide +kernel

theorem witness_LatchedOutputKeepsTheFloor :
    State.Legal (tickAt 4000#32 ⟨7680#16, true⟩ (fun u => { u with latch := .on })) ∧
      tickRuns (tickAt 4000#32 ⟨7680#16, true⟩ (fun u => { u with latch := .on })) 0#2 ∧
      rc.offBelow.toNat ≤ rc.kickDuty.toNat := by decide

/-- A running block and a stopped one. -/
theorem witness_PwmIsAnIntegerPercent :
    (State.Legal two ∧ two.chans[(1#2 : ChanIx).toNat]? = some (chan rc) ∧ two.en = true) ∧
      (State.Legal State.reset ∧ State.reset.chans[(3#2 : ChanIx).toNat]? = some Channel.reset ∧
        State.reset.en = false) :=
  ⟨⟨by decide, by decide, by decide⟩, by decide, by decide, by decide⟩

/-- An accepted edge, a window, and a write: each changes its own part. -/
theorem witness_OnlyTheOwnerWritesEachPart :
    (∃ t, exec (.edge 1#2) { two with nowUs := 501#32 } = .next t ∧
        restarts (.edge 1#2) { two with nowUs := 501#32 } = false ∧ (1#2 : ChanIx).toNat < two.nch ∧
        (chanAt t 1#2).pulse ≠ (chanAt two 1#2).pulse) ∧
      (∃ t, exec .tickUs (windowAt 8#32 4#32 0#32 0#32) = .next t ∧
        (chanAt t 0#2).est ≠ (chanAt (windowAt 8#32 4#32 0#32 0#32) 0#2).est) ∧
      (∃ t, exec (.wrTemp 0x13400#32) two = .next t ∧ t.temp ≠ two.temp) ∧
      (∃ t, exec (.wrId 5#32) two = .next t ∧ t.err ≠ two.err ∧ t.port ≠ two.port) :=
  ⟨⟨_, rfl, by decide, by decide, by decide⟩, ⟨_, rfl, by decide +kernel⟩, ⟨_, rfl, by decide⟩,
    ⟨_, rfl, by decide, by decide⟩⟩

/-- Two blocks that differ in channel 1 only, before a window and a tick of channel 0. -/
theorem witness_ChannelsAreIndependent :
    ∃ t₁ t₂, chanAt (eventAt 500#32 ⟨13312#16, true⟩ [chan rc, chan rc]) 0#2 =
        chanAt (eventAt 500#32 ⟨13312#16, true⟩ [chan rc, Channel.reset]) 0#2 ∧
      (eventAt 500#32 ⟨13312#16, true⟩ [chan rc, chan rc]).nch =
        (eventAt 500#32 ⟨13312#16, true⟩ [chan rc, Channel.reset]).nch ∧
      exec .tickUs (eventAt 500#32 ⟨13312#16, true⟩ [chan rc, chan rc]) = .next t₁ ∧
      exec .tickUs (eventAt 500#32 ⟨13312#16, true⟩ [chan rc, Channel.reset]) = .next t₂ :=
  ⟨_, _, rfl, rfl, rfl, rfl⟩

/-- Two blocks that differ in count and RPM only. -/
theorem witness_RpmNeverFeedsTheController :
    ∃ t₁ t₂, (chanAt (windowAt 8#32 4#32 0#32 0#32) 0#2).ctl = (chanAt (windowAt 9#32 1#32 60#32 7#32) 0#2).ctl ∧
      (chanAt (windowAt 8#32 4#32 0#32 0#32) 0#2).cfg = (chanAt (windowAt 9#32 1#32 60#32 7#32) 0#2).cfg ∧
      (windowAt 8#32 4#32 0#32 0#32).nch = (windowAt 9#32 1#32 60#32 7#32).nch ∧
      exec .tickUs (windowAt 8#32 4#32 0#32 0#32) = .next t₁ ∧
      exec .tickUs (windowAt 9#32 1#32 60#32 7#32) = .next t₂ :=
  ⟨_, _, rfl, rfl, rfl, rfl, rfl⟩

end Sys2Proof.Tests
end

section
/-! Noninterference from the tach side to the controller (00_scope.md R8; 41_tach_estimator.md R148; 42_fan_controller.md
R171), settling O53. First what each operation does to the registers, by the same rule in every state; then a relation between
two states that leaves out the pulse accumulators and estimates, and that every operation keeps. -/

namespace Sys2Proof.Machine

/-! ### The effect of an operation, uniformly in the state -/

/-- `t` is `s` up to ERR and the bus port, the two things an access may change beside what it accesses (R63, R300). -/
def SameButErrPort (s t : State) : Prop := ∃ e p, t = { s with err := e, port := p }

theorem sameButErrPort_answer (st : Status) (rd : Option Word) (s : State) : SameButErrPort s (answer st rd s) :=
  ⟨s.err, some ⟨st, rd⟩, rfl⟩

theorem sameButErrPort_busError (e : BusErr) (a : Offset) (wr : Bool) (s : State) :
    SameButErrPort s (busError e a wr s) :=
  ⟨recordError e a wr s.err, some ⟨.err, if wr then none else some 0#32⟩, rfl⟩

theorem sameButErrPort_busRead (a : Offset) (value : State → Word) (s : State) :
    SameButErrPort s (busRead a value s) := by
  rcases busRead_cases a value s with h | ⟨e, h⟩ <;> rw [h]
  · exact sameButErrPort_answer _ _ _
  · exact sameButErrPort_busError _ _ _ _

theorem sameButErrPort_readConfig (c : ChanIx) (rel : BitVec 7) (value : ChanConfig → Word) (s : State) :
    SameButErrPort s (readConfig c rel value s) :=
  sameButErrPort_busRead (chanOffset c rel) (fun s => value (chanAt s c).cfg) s

theorem sameButErrPort_busWriteReadOnly (a : Offset) (s : State) : SameButErrPort s (busWriteReadOnly a s) := by
  rcases busWrite_cases a (fun s => s) s with h | ⟨e, h⟩ <;> rw [busWriteReadOnly, h]
  · exact sameButErrPort_answer _ _ _
  · exact sameButErrPort_busError _ _ _ _

/-- Changing an absent channel changes nothing. -/
theorem updateChan_absent {s : State} {c : ChanIx} (f : Channel → Channel) (hc : ¬ c.toNat < s.nch) :
    updateChan c f s = s := by
  have hm : s.chans.modify c.toNat f = s.chans := List.modify_eq_self (Nat.le_of_not_lt hc)
  rw [updateChan, hm]

/-- A write of a configuration register sets the channel's configuration by `f`; for an absent channel, where it is an
error, there is nothing to set. -/
theorem sameButErrPort_writeConfig (c : ChanIx) {rel : BitVec 7} (f : ChanConfig → ChanConfig) (s : State)
    (h : rel.extractLsb' 0 2 = 0#2) (hrel : rel.toNat < 0x4C) :
    SameButErrPort (updateChan c (fun ch => { ch with cfg := f ch.cfg }) s) (writeConfig c rel f s) := by
  by_cases hc : c.toNat < s.nch
  · rw [writeConfig_ok f h hrel hc]
    exact sameButErrPort_answer _ _ _
  · rw [writeConfig_absent f h hc, updateChan_absent _ hc]
    exact sameButErrPort_busError _ _ _ _

/-- In every state in which the operation answers next, it takes the registers other than ERR as `e` does. -/
def RegisterEffect (i : Instr) (e : State → State) : Prop := ∀ s t, exec i s = .next t → SameButErrPort (e s) t

theorem registerEffect_of {i : Instr} {run e : State → State} (hi : ∀ s, exec i s = .next (run s))
    (h : ∀ s, SameButErrPort (e s) (run s)) : RegisterEffect i e := by
  intro s t ht
  cases (hi s).symm.trans ht
  exact h s

theorem registerEffect_wrCtrl (v : Word) : RegisterEffect (.wrCtrl v) (writeCtrl v) :=
  registerEffect_of (fun _ => rfl) fun s => sameButErrPort_answer .ok none (writeCtrl v s)

theorem registerEffect_wrErr (v : Word) : RegisterEffect (.wrErr v) id :=
  registerEffect_of (fun _ => rfl) fun s => ⟨(clearErr s).err, some ⟨.ok, none⟩, rfl⟩

theorem registerEffect_wrTemp (v : Word) : RegisterEffect (.wrTemp v) fun s => { s with temp := tempOfWord v } :=
  registerEffect_of (fun _ => rfl) fun s => sameButErrPort_answer .ok none { s with temp := tempOfWord v }

/-- An EDGE changes at most the accumulator of its channel (R120, R123). -/
theorem registerEffect_edge (d : ChanIx) :
    RegisterEffect (.edge d) fun s => if s.en then updateChan d (recordEdge s.nowUs s.nowMs) s else s := by
  intro s t h
  simp only [exec, execEdge] at h
  split at h
  · cases h
    exact ⟨_, _, rfl⟩
  · cases h

/-- Every operation other than WR CTRL, WR TEMP, EDGE, TICK_US and RESET keeps every register but ERR, or sets one
channel's configuration by a function that does not depend on the state. -/
theorem instr_effect_cases (i : Instr) :
    RegisterEffect i id ∨
      (∃ (d : ChanIx) (f : ChanConfig → ChanConfig),
        RegisterEffect i (updateChan d fun ch => { ch with cfg := f ch.cfg })) ∨
      (∃ v, i = .wrCtrl v) ∨ (∃ v, i = .wrTemp v) ∨ (∃ d, i = .edge d) ∨ i = .tickUs ∨ i = .reset := by
  cases i with
  | rdChDebounceUs | rdChWindowMs | rdChTimeoutMs | rdChPpr | rdChPeriodMs | rdChRate | rdChAlpha | rdChThresh
  | rdChMinOnMs | rdChMinOffMs | rdChKickDuty | rdChKickMs | rdChHoldMs | rdChSafe
  | rdChCurve0 | rdChCurve1 | rdChCurve2 | rdChCurve3 | rdChCurve4 =>
    exact .inl (registerEffect_of (fun _ => rfl) (sameButErrPort_readConfig _ _ _))
  | rdId | rdCfg | rdCtrl | rdErr | rdNowMs | rdNowUs | rdTemp | rdPresc
  | rdChLastTick | rdChCount | rdChBase | rdChRpm | rdChDelta | rdChWinEnd | rdChLastPulseMs | rdChLastEdgeUs
  | rdChCmd | rdChOut | rdChTTrans | rdChKickEnd | rdChInvSince =>
    exact .inl (registerEffect_of (fun _ => rfl) (sameButErrPort_busRead _ _))
  | wrId | wrCfg | wrNowMs | wrNowUs | wrPresc
  | wrChLastTick | wrChCount | wrChBase | wrChRpm | wrChDelta | wrChWinEnd | wrChLastPulseMs | wrChLastEdgeUs
  | wrChCmd | wrChOut | wrChTTrans | wrChKickEnd | wrChInvSince =>
    exact .inl (registerEffect_of (fun _ => rfl) (sameButErrPort_busWriteReadOnly _))
  | unmapped | misaligned | badSize => exact .inl (registerEffect_of (fun _ => rfl) (sameButErrPort_busError _ _ _))
  | wrErr v => exact .inl (registerEffect_wrErr v)
  | wrChDebounceUs | wrChWindowMs | wrChTimeoutMs | wrChPpr | wrChPeriodMs | wrChRate | wrChAlpha | wrChThresh
  | wrChMinOnMs | wrChMinOffMs | wrChKickDuty | wrChKickMs | wrChHoldMs | wrChSafe
  | wrChCurve0 | wrChCurve1 | wrChCurve2 | wrChCurve3 | wrChCurve4 =>
    exact .inr (.inl ⟨_, _, registerEffect_of (fun _ => rfl)
      fun s => sameButErrPort_writeConfig _ _ s rfl (by decide)⟩)
  | wrCtrl v => exact .inr (.inr (.inl ⟨v, rfl⟩))
  | wrTemp v => exact .inr (.inr (.inr (.inl ⟨v, rfl⟩)))
  | edge d => exact .inr (.inr (.inr (.inr (.inl ⟨d, rfl⟩))))
  | tickUs => exact .inr (.inr (.inr (.inr (.inr (.inl rfl)))))
  | reset => exact .inr (.inr (.inr (.inr (.inr (.inr rfl)))))

/-! ### A channel after an update of the channels, present or absent -/

theorem chanAt_map {s t : State} {f : Channel → Channel} (h : t.chans = s.chans.map f) (c : ChanIx) :
    chanAt t c = if c.toNat < s.nch then f (chanAt s c) else chanAt s c := by
  split
  · exact chanAt_of_map h ‹_›
  · have hn : s.chans[c.toNat]? = none := List.getElem?_eq_none (Nat.le_of_not_lt ‹_›)
    simp [chanAt, h, hn]

theorem chanAt_updateChan_ite (s : State) (d c : ChanIx) (f : Channel → Channel) :
    chanAt (updateChan d f s) c = if c.toNat < s.nch ∧ c = d then f (chanAt s c) else chanAt s c := by
  by_cases hc : c.toNat < s.nch
  · simp [chanAt_updateChan s d c f hc, hc]
  · by_cases hd : c = d
    · subst hd
      simp [updateChan_absent f hc, hc]
    · simp [chanAt_updateChan_other hd, hd]

/-! ### The control side of a channel: everything but its pulse accumulator and estimate -/

/-- The channels agree on configuration and controller state. -/
def Channel.SameControl (a b : Channel) : Prop := a.cfg = b.cfg ∧ a.ctl = b.ctl

theorem Channel.SameControl.withConfig {a b : Channel} (h : a.SameControl b) (f : ChanConfig → ChanConfig) :
    Channel.SameControl { a with cfg := f a.cfg } { b with cfg := f b.cfg } := ⟨congrArg f h.1, h.2⟩

/-- A start's controller values depend on NOW_MS alone (R65). -/
theorem Channel.SameControl.start {a b : Channel} (h : a.SameControl b) (nm nu₁ nu₂ : Word) :
    (startChannel nm nu₁ a).SameControl (startChannel nm nu₂ b) := ⟨h.1, rfl⟩

theorem Channel.SameControl.recordEdge {a b : Channel} (h : a.SameControl b) (nu₁ nm₁ nu₂ nm₂ : Word) :
    (recordEdge nu₁ nm₁ a).SameControl (recordEdge nu₂ nm₂ b) := by
  simpa [Channel.SameControl] using h

/-- The heart of R8: a channel's part of a millisecond event leaves a configuration and a controller state that its
configuration, its controller state, NOW_MS and TEMP decide. -/
theorem Channel.SameControl.channelMs {a b : Channel} (h : a.SameControl b) (now : Word) (temp : Temp) :
    (channelMs now temp a).SameControl (channelMs now temp b) := by
  obtain ⟨hcfg, hctl⟩ := h
  have hdue : tickDue now a = tickDue now b := by simp only [tickDue, hcfg, hctl]
  constructor
  · simpa using hcfg
  · simp only [channelMs_ctl, hdue, hcfg, hctl]

/-! ### Two states with the same control side -/

/-- The states agree on EN, NOW_MS, PRESC, TEMP, NCH and the control side of channel `c`; accumulators and estimates,
NOW_US, ERR, the bus port and the other channels may differ. -/
structure SameControl (c : ChanIx) (s₁ s₂ : State) : Prop where
  en : s₁.en = s₂.en
  nowMs : s₁.nowMs = s₂.nowMs
  presc : s₁.presc = s₂.presc
  temp : s₁.temp = s₂.temp
  nch : s₁.nch = s₂.nch
  chan : (chanAt s₁ c).SameControl (chanAt s₂ c)

section
variable {c : ChanIx} {s₁ s₂ t₁ t₂ : State}

theorem SameControl.sameButErrPort (h : SameControl c s₁ s₂) (h₁ : SameButErrPort s₁ t₁) (h₂ : SameButErrPort s₂ t₂) :
    SameControl c t₁ t₂ := by
  obtain ⟨_, _, rfl⟩ := h₁
  obtain ⟨_, _, rfl⟩ := h₂
  exact ⟨h.en, h.nowMs, h.presc, h.temp, h.nch, h.chan⟩

theorem SameControl.of_registerEffect {i : Instr} {e : State → State} (he : RegisterEffect i e)
    (h : SameControl c (e s₁) (e s₂)) (h₁ : exec i s₁ = .next t₁) (h₂ : exec i s₂ = .next t₂) : SameControl c t₁ t₂ :=
  h.sameButErrPort (he _ _ h₁) (he _ _ h₂)

theorem SameControl.chan_map (h : SameControl c s₁ s₂) {f₁ f₂ : Channel → Channel} (h₁ : t₁.chans = s₁.chans.map f₁)
    (h₂ : t₂.chans = s₂.chans.map f₂) (hf : ∀ a b : Channel, a.SameControl b → (f₁ a).SameControl (f₂ b)) :
    (chanAt t₁ c).SameControl (chanAt t₂ c) := by
  rw [chanAt_map h₁, chanAt_map h₂, h.nch]
  split
  · exact hf _ _ h.chan
  · exact h.chan

theorem SameControl.updateChan (h : SameControl c s₁ s₂) (d : ChanIx) {f₁ f₂ : Channel → Channel}
    (hf : ∀ a b : Channel, a.SameControl b → (f₁ a).SameControl (f₂ b)) :
    SameControl c (updateChan d f₁ s₁) (updateChan d f₂ s₂) := by
  refine ⟨h.en, h.nowMs, h.presc, h.temp, by simpa using h.nch, ?_⟩
  rw [chanAt_updateChan_ite, chanAt_updateChan_ite, h.nch]
  split
  · exact hf _ _ h.chan
  · exact h.chan

theorem SameControl.writeCtrl (h : SameControl c s₁ s₂) (v : Word) :
    SameControl c (writeCtrl v s₁) (writeCtrl v s₂) := by
  refine ⟨by simp, by simpa using h.nowMs, by simpa using h.presc, by simpa using h.temp, by simpa using h.nch, ?_⟩
  have h₁ := writeCtrl_chans v s₁
  have h₂ := writeCtrl_chans v s₂
  rw [h.en, h.nowMs] at h₁
  by_cases hs : s₂.en = false ∧ v.getLsbD 0 = true
  · rw [if_pos hs] at h₁ h₂
    exact h.chan_map h₁ h₂ fun _ _ hab => hab.start _ _ _
  · rw [if_neg hs] at h₁ h₂
    rw [chanAt_congr h₁, chanAt_congr h₂]
    exact h.chan

theorem SameControl.withTemp (h : SameControl c s₁ s₂) (p : Temp) :
    SameControl c { s₁ with temp := p } { s₂ with temp := p } := ⟨h.en, h.nowMs, h.presc, rfl, h.nch, h.chan⟩

theorem SameControl.msEvent (h : SameControl c s₁ s₂) : SameControl c (msEvent s₁) (msEvent s₂) := by
  refine ⟨by simpa using h.en, by simpa using h.nowMs, by simpa using h.presc, by simpa using h.temp,
    by simpa using h.nch, ?_⟩
  have h₁ := msEvent_chans s₁
  have h₂ := msEvent_chans s₂
  rw [h.en, h.nowMs, h.temp] at h₁
  cases he : s₂.en
  · rw [he, if_neg (by decide)] at h₁ h₂
    rw [chanAt_congr h₁, chanAt_congr h₂]
    exact h.chan
  · rw [he, if_pos rfl] at h₁ h₂
    exact h.chan_map h₁ h₂ fun _ _ hab => hab.channelMs _ _

theorem SameControl.tickUs (h : SameControl c s₁ s₂) (h₁ : execTickUs s₁ = .next t₁) (h₂ : execTickUs s₂ = .next t₂) :
    SameControl c t₁ t₂ := by
  by_cases hp : s₁.presc.toNat = 999
  · rw [execTickUs_ms hp] at h₁
    rw [execTickUs_ms (h.presc ▸ hp)] at h₂
    cases h₁
    cases h₂
    exact SameControl.msEvent ⟨h.en, congrArg (· + 1#32) h.nowMs, rfl, h.temp, h.nch, h.chan⟩
  · rw [execTickUs_quiet hp] at h₁
    rw [execTickUs_quiet (h.presc ▸ hp)] at h₂
    cases h₁
    cases h₂
    exact ⟨h.en, h.nowMs, congrArg (· + 1#10) h.presc, h.temp, h.nch, h.chan⟩

theorem SameControl.reset (h : SameControl c s₁ s₂) (h₁ : execReset s₁ = .next t₁) (h₂ : execReset s₂ = .next t₂) :
    SameControl c t₁ t₂ := by
  cases h₁
  cases h₂
  refine ⟨rfl, rfl, rfl, rfl, ?_, h.chan_map rfl rfl fun _ _ hab => (hab.withConfig fun _ => configReset).start _ _ _⟩
  simpa [State.nch] using h.nch

theorem SameControl.edge (h : SameControl c s₁ s₂) {d : ChanIx} (h₁ : exec (.edge d) s₁ = .next t₁)
    (h₂ : exec (.edge d) s₂ = .next t₂) : SameControl c t₁ t₂ := by
  refine SameControl.of_registerEffect (registerEffect_edge d) ?_ h₁ h₂
  rw [h.en]
  split
  · exact h.updateChan d fun _ _ hab => hab.recordEdge _ _ _ _
  · exact h

/-- Every operation keeps the relation, so a run of any length keeps it too: the tach side never reaches the control
side. -/
theorem SameControl.exec_next {i : Instr} (h : SameControl c s₁ s₂) (h₁ : exec i s₁ = .next t₁)
    (h₂ : exec i s₂ = .next t₂) : SameControl c t₁ t₂ := by
  rcases instr_effect_cases i with he | ⟨d, f, he⟩ | ⟨v, rfl⟩ | ⟨v, rfl⟩ | ⟨d, rfl⟩ | rfl | rfl
  · exact .of_registerEffect he h h₁ h₂
  · exact .of_registerEffect he (h.updateChan d fun _ _ hab => hab.withConfig f) h₁ h₂
  · exact .of_registerEffect (registerEffect_wrCtrl v) (h.writeCtrl v) h₁ h₂
  · exact .of_registerEffect (registerEffect_wrTemp v) (h.withTemp (tempOfWord v)) h₁ h₂
  · exact h.edge h₁ h₂
  · exact h.tickUs h₁ h₂
  · exact h.reset h₁ h₂

/-- The PWM output is on the control side. -/
theorem SameControl.pwmDuty (h : SameControl c s₁ s₂) : pwmDuty s₁ c = pwmDuty s₂ c := by
  simp only [Machine.pwmDuty, h.en, h.chan.2]

end

/-- Settles O53: agreement on the control side is kept by every operation, and decides configuration, controller state
and duty. -/
theorem rpmNeverFeedsTheController : Obligations.RpmNeverFeedsTheController := by
  intro i s₁ s₂ t₁ t₂ c hen hnowMs _ hpresc htemp hnch hcfg hctl h₁ h₂
  have h : SameControl c s₁ s₂ := ⟨hen, hnowMs, hpresc, htemp, hnch, hcfg, hctl⟩
  have ht := h.exec_next h₁ h₂
  exact ⟨ht.chan.1, ht.chan.2, ht.pwmDuty⟩

end Sys2Proof.Machine
end

section
/-! The invariant of every step (10_state.md R26, R30, R32; 41_tach_estimator.md R142; 42_fan_controller.md R165, R170;
60_exceptions.md R301), settling O10. Legality goes from the parts to the whole: each controller sub-step, a channel, each
effect on the state, an operation, a step. -/

namespace Sys2Proof.Machine

/-! ### The controller keeps a legal controller state (R170) -/

/-- With a legal configuration RAW stays at most 100 %: it is the curve's value, SAFE_DUTY, or what it was (R162). -/
theorem tempStep_raw_le {k : ChanConfig} (hk : k.Legal) (temp : Temp) (now : Word) {u : CtlState}
    (hu : u.raw.toNat ≤ 25600) : (tempStep k temp now u).raw.toNat ≤ 25600 := by
  obtain ⟨-, -, -, -, -, -, -, hsafe, -, h0, h1, h2, h3, h4⟩ := hk
  cases ht : temp.valid
  case true =>
    obtain ⟨v, hv, hle⟩ := curve_le (k := k) temp.t.toInt h0 h1 h2 h3 h4
    rw [tempStep_valid ht, hv, ofInt_toNat_of_lt (by omega)]
    exact hle
  case false =>
    obtain ⟨-, -, hraw⟩ := tempStep_invalid (k := k) (now := now) (u := u) ht
    generalize (if u.inv then u.invSince else now) = since at hraw
    split at hraw
    · exact hraw.1 ▸ hsafe
    · exact hraw.1 ▸ hu

/-- FAILSAFE after TempStep comes with an invalid temperature (R162). -/
theorem tempStep_inv_of_failsafe {k : ChanConfig} {temp : Temp} {now : Word} {u : CtlState}
    (h : (tempStep k temp now u).failsafe = true) : (tempStep k temp now u).inv = true := by
  cases ht : temp.valid
  case true => simp [tempStep_valid ht] at h
  case false => exact (tempStep_invalid ht).1

/-- FILT moves toward RAW and not past it, so a bound of both is kept (R163, R164). -/
theorem filterStep_filt_le {k : ChanConfig} (dt : Word) {u : CtlState} {m : Nat} (ha : k.alpha.toNat ≤ 65536)
    (hraw : u.raw.toNat ≤ m) (hfilt : u.filt.toNat ≤ m) : (filterStep k dt u).filt.toNat ≤ m := by
  rcases Nat.le_total u.filt.toNat u.raw.toNat with h | h
  · have hmove := ema_le (min (u.raw.toNat - u.filt.toNat) (maxStep k dt)) ha
    rw [filterStep_up dt ha h]
    omega
  · rw [filterStep_down dt ha h]
    omega

/-- The fail-safe forces the latch ON and holds it there (R165). -/
theorem latchStep_on_of_failsafe {k : ChanConfig} {now : Word} {u : CtlState} (h : u.failsafe = true) :
    (latchStep k now u).latch = .on := by
  rcases latchStep_cases k now u with ⟨-, -, he⟩ | ⟨-, hoff, -⟩ | ⟨he, hon, -⟩
  · rw [he]
  · simp [((turnsOff_iff k now u).mp hoff).1] at h
  · rw [he]
    cases hl : u.latch
    case off => exact absurd ((turnsOn_iff k now u).mpr (.inl h)) (by simp [hon hl])
    case on => rfl

/-- No kick is held in OFF: a transition to OFF clears it (R165). -/
theorem latchStep_kick_of_off {k : ChanConfig} {now : Word} {u : CtlState} (hu : u.latch = .off → u.kick = false)
    (h : (latchStep k now u).latch = .off) : (latchStep k now u).kick = false := by
  rcases latchStep_cases k now u with ⟨-, -, he⟩ | ⟨-, -, he⟩ | ⟨he, -, -⟩ <;> rw [he] at h ⊢
  · cases h
  · exact hu h

/-- In OFF the output is no duty and not active, and the kick is left (R167, R168). -/
theorem outputStep_quiet_of_off {k : ChanConfig} {now : Word} {u : CtlState} (h : u.latch = .off) :
    (outputStep k now u).outq = 0#16 ∧ (outputStep k now u).kick = u.kick ∧ (outputStep k now u).active = false := by
  rw [outputStep_off h]
  exact ⟨rfl, rfl, rfl⟩

/-- A controller tick of a legal configuration leaves a legal controller state (R160, R170). -/
theorem ctrlStep_legal {k : ChanConfig} (hk : k.Legal) (temp : Temp) (now dt : Word) {u : CtlState} (hu : u.Legal) :
    (ctrlStep k temp now dt u).Legal := by
  obtain ⟨hraw, hfilt, -, -, hoff, -⟩ := hu
  have ⟨_, _, _, ha, _⟩ := hk
  have hraw' := tempStep_raw_le hk temp now hraw
  refine ⟨?_, ?_, outputStep_outq_le _ _ _, outputStep_out _ _ _, fun hl => ?_, fun hf => ⟨?_, ?_⟩⟩
  · simpa [ctrlStep] using hraw'
  · simpa [ctrlStep] using filterStep_filt_le dt ha hraw' (by simpa using hfilt)
  · rw [ctrlStep, outputStep_latch] at hl
    obtain ⟨hq, hkick, hact⟩ := outputStep_quiet_of_off (k := k) (now := now) hl
    exact ⟨hq, hkick.trans (latchStep_kick_of_off (fun h => by simpa using (hoff (by simpa using h)).2.1) hl), hact⟩
  · simp only [ctrlStep, outputStep_failsafe, latchStep_failsafe, filterStep_failsafe] at hf
    simpa [ctrlStep] using tempStep_inv_of_failsafe hf
  · simp only [ctrlStep, outputStep_failsafe, latchStep_failsafe] at hf
    rw [ctrlStep, outputStep_latch]
    exact latchStep_on_of_failsafe hf

/-! ### A legal channel stays legal -/

theorem Channel.Legal.withConfig {ch : Channel} (h : ch.Legal) {f : ChanConfig → ChanConfig}
    (hf : ∀ k : ChanConfig, k.Legal → (f k).Legal) : Channel.Legal { ch with cfg := f ch.cfg } :=
  ⟨hf _ h.1, h.2⟩

theorem Channel.Legal.recordEdge {ch : Channel} (h : ch.Legal) (nu nm : Word) : (recordEdge nu nm ch).Legal := by
  simpa only [Channel.Legal, recordEdge_cfg, recordEdge_est, recordEdge_ctl] using h

/-- The start values are legal, whatever the runtime state was (R65). -/
theorem startChannel_legal {ch : Channel} (h : ch.cfg.Legal) (nm nu : Word) : (startChannel nm nu ch).Legal :=
  ⟨h, .inl rfl, by simp⟩

theorem configReset_legal : configReset.Legal := by decide

/-- A millisecond event keeps a channel legal: a window leaves a legal RPM (R142), a tick a legal controller state. -/
theorem Channel.Legal.channelMs {ch : Channel} (h : ch.Legal) (now : Word) (temp : Temp) :
    (channelMs now temp ch).Legal := by
  obtain ⟨hcfg, hest, hctl⟩ := h
  refine ⟨by rwa [channelMs_cfg], ?_, ?_⟩
  · rw [channelMs_est]
    split
    · exact windowRpm_legal now _ ch hest
    · exact hest
  · rw [channelMs_ctl]
    split
    · exact ctrlStep_legal hcfg _ _ _ hctl
    · exact hctl

/-! ### A legal state stays legal -/

/-- An error recorded is an error with a code (R301). -/
theorem recordError_legal (e : ErrReg) (code : BusErr) (a : Offset) (wr : Bool) : (recordError code a wr e).Legal :=
  fun h => absurd h (recordError_code e code a wr)

theorem forall_mem_modify {α : Type} {P : α → Prop} {l : List α} (hl : ∀ x ∈ l, P x) (n : Nat) {f : α → α}
    (hf : ∀ x, P x → P (f x)) : ∀ x ∈ l.modify n f, P x := by
  intro x hx
  obtain ⟨j, hj⟩ := List.mem_iff_getElem?.mp hx
  rw [List.getElem?_modify] at hj
  obtain ⟨y, hy, rfl⟩ := Option.map_eq_some_iff.mp hj
  have hPy := hl y (List.mem_of_getElem? hy)
  split
  · exact hf y hPy
  · exact hPy

section
variable {s : State}

theorem State.Legal.answer (h : s.Legal) (st : Status) (rd : Option Word) : (answer st rd s).Legal := h

theorem State.Legal.busError (h : s.Legal) (e : BusErr) (a : Offset) (wr : Bool) : (busError e a wr s).Legal := by
  obtain ⟨hnch, hpresc, -, hchans⟩ := h
  exact ⟨hnch, hpresc, recordError_legal _ _ _ _, hchans⟩

theorem State.Legal.clearErr (h : s.Legal) : (clearErr s).Legal := by
  obtain ⟨hnch, hpresc, -, hchans⟩ := h
  exact ⟨hnch, hpresc, fun _ => ⟨rfl, rfl, rfl⟩, hchans⟩

theorem State.Legal.updateChan (h : s.Legal) (c : ChanIx) {f : Channel → Channel}
    (hf : ∀ ch : Channel, ch.Legal → (f ch).Legal) : (updateChan c f s).Legal := by
  obtain ⟨hnch, hpresc, herr, hchans⟩ := h
  exact ⟨by rwa [nch_updateChan], hpresc, herr, forall_mem_modify hchans _ hf⟩

/-- The channels of a legal state, each changed by a function that keeps legal channels legal. -/
theorem State.Legal.forall_mem_map (h : s.Legal) {f : Channel → Channel}
    (hf : ∀ ch : Channel, ch.Legal → (f ch).Legal) : ∀ ch ∈ s.chans.map f, ch.Legal := by
  obtain ⟨-, -, -, hchans⟩ := h
  exact List.forall_mem_map.mpr fun ch hch => hf ch (hchans ch hch)

theorem State.Legal.writeCtrl (h : s.Legal) (v : Word) : (writeCtrl v s).Legal := by
  have ⟨hnch, hpresc, herr, hchans⟩ := h
  refine ⟨by rwa [nch_writeCtrl], by rwa [writeCtrl_presc], by rwa [writeCtrl_err], ?_⟩
  rw [writeCtrl_chans]
  split
  · exact h.forall_mem_map fun _ hch => startChannel_legal hch.1 _ _
  · exact hchans

theorem State.Legal.msEvent (h : s.Legal) : (msEvent s).Legal := by
  have ⟨hnch, hpresc, herr, hchans⟩ := h
  refine ⟨by rwa [nch_msEvent], by rwa [msEvent_presc], by rwa [msEvent_err], ?_⟩
  rw [msEvent_chans]
  split
  · exact h.forall_mem_map fun _ hch => hch.channelMs _ _
  · exact hchans

/-- TICK_US keeps the prescaler below 1000: at 999 it starts again from 0 (R30, R200). -/
theorem State.Legal.tickUs {t : State} (h : s.Legal) (ht : execTickUs s = .next t) : t.Legal := by
  obtain ⟨hnch, hpresc, herr, hchans⟩ := h
  by_cases hp : s.presc.toNat = 999
  · rw [execTickUs_ms hp] at ht
    cases ht
    exact State.Legal.msEvent ⟨hnch, Nat.zero_le _, herr, hchans⟩
  · rw [execTickUs_quiet hp] at ht
    cases ht
    have hnext : (s.presc + 1#10).toNat ≤ 999 := by
      rw [BitVec.toNat_add]
      simp
      omega
    exact ⟨hnch, hnext, herr, hchans⟩

theorem State.Legal.reset {t : State} (h : s.Legal) (ht : execReset s = .next t) : t.Legal := by
  have ⟨hnch, _⟩ := h
  cases ht
  refine ⟨by simpa [State.nch] using hnch, Nat.zero_le _, fun _ => ⟨rfl, rfl, rfl⟩, h.forall_mem_map fun _ _ => ?_⟩
  exact startChannel_legal configReset_legal _ _

/-- Every operation that answers next keeps a legal state legal. -/
theorem State.Legal.exec_next {t : State} (h : s.Legal) {i : Instr} (ht : exec i s = .next t) : t.Legal := by
  rcases exec_next_cases ht with ⟨-, ⟨v, rfl⟩ | ⟨e, a, rfl⟩⟩ | ⟨-, ⟨c, f, hf, -, rfl⟩ | ⟨e, a, rfl⟩⟩ | ⟨-, e, a, rfl⟩ |
    ⟨v, -, rfl⟩ | ⟨v, -, rfl⟩ | ⟨v, -, rfl⟩ | ⟨c, -, -, rfl⟩ | ⟨-, hrun⟩ | ⟨-, hrun⟩
  · exact h.answer _ _
  · exact h.busError _ _ _
  · exact (h.updateChan c fun _ hch => hch.withConfig hf).answer _ _
  · exact h.busError _ _ _
  · exact h.busError _ _ _
  · exact (h.writeCtrl v).answer _ _
  · exact h.clearErr.answer _ _
  · exact h
  · split
    · exact h.updateChan c fun _ hch => hch.recordEdge _ _
    · exact h
  · exact h.tickUs hrun
  · exact h.reset hrun

end

/-- Settles O10: a step runs no operation, or one that keeps legality. -/
theorem everyStepKeepsTheStateLegal : Obligations.EveryStepKeepsTheStateLegal := by
  intro s t h hstep
  rcases step_next_cases hstep with ⟨-, rfl⟩ | ⟨p, rest, i, -, -, hexec⟩
  · exact h
  · exact State.Legal.exec_next (s := { s with pending := rest }) h hexec

end Sys2Proof.Machine
end

section
/-! Accesses to channels that do not exist (10_state.md R31; 60_exceptions.md R302, R305), settling O26. An operation whose
access BusCheck rejects is that bus error, whatever register it names; and BusCheck rejects every register of an absent
channel. -/

namespace Sys2Proof.Machine

/-! ### The fields and the number of a bus word (R91) -/

@[simp] theorem opKind_beq_presentBus (acc : Access) (sz : BitVec 2) (a : Offset) :
    (opKind (presentBus acc sz a).word == 1#2) = isWrite acc := by
  cases acc <;> simp [isWrite]

/-- The number of a bus word is the sum of its fields (R91). -/
theorem presentBus_toNat (acc : Access) (sz : BitVec 2) (a : Offset) :
    (presentBus acc sz a).word.toNat = (if isWrite acc then 0x4000 else 0) + 0x1000 * sz.toNat + a.toNat := by
  have hword (k : BitVec 2) : (k ++ sz ++ a).toNat = 0x4000 * k.toNat + 0x1000 * sz.toNat + a.toNat := by
    rw [append_toNat, append_toNat]
    omega
  cases acc
  · exact hword 0#2
  · exact hword 1#2

/-- The offset of register `ix` of a channel is word-aligned. -/
theorem index_low (ix : BitVec 5) : (ix ++ 0#2 : BitVec 7).extractLsb' 0 2 = 0#2 := by
  revert ix
  decide

/-- The offset of register `ix` of channel `c` as a number (R22). -/
theorem chanOffset_index_toNat (c : ChanIx) (ix : BitVec 5) :
    (chanOffset c (ix ++ 0#2 : BitVec 7)).toNat = 0x200 + 0x80 * c.toNat + 4 * ix.toNat := by
  obtain ⟨-, -, -, -, -, h⟩ := chanOffset_fields c _ (index_low ix)
  rw [h, append_toNat, BitVec.toNat_ofNat]
  omega

/-! ### An access that BusCheck rejects -/

/-- BusCheck where no register stands for any NCH (R302, R305). -/
theorem busCheck_outside {nch : Nat} {a : BitVec 10} (wr : Bool) (h : outsideRegisters (unmappedOffset a) = true) :
    busCheck nch 2#2 (unmappedOffset a) wr = some .unmapped := by
  simp only [outsideRegisters, Bool.and_eq_true, bne_iff_ne] at h
  obtain ⟨h5, h9⟩ := h
  simp [busCheck, mapped, unmappedOffset_low, h5, h9]

theorem readConfig_error {s : State} {c : ChanIx} {rel : BitVec 7} {value : ChanConfig → Word} {e : BusErr}
    (h : busCheck s.nch 2#2 (chanOffset c rel) false = some e) :
    readConfig c rel value s = busError e (chanOffset c rel) false s :=
  busRead_error (value := fun s => value (chanAt s c).cfg) h

/-- An access that BusCheck rejects records that error at its own offset and in its own direction, and does nothing else:
every register row runs the envelope, and every error row raises what BusCheck finds (R220, R302). -/
theorem exec_of_busCheck_error {i : Instr} {s : State} {e : BusErr} (hwf : wellFormed s.nch i = true)
    (ha : agentOf i = .host)
    (h : busCheck s.nch (opSize (encode i).word) (opOffset (encode i).word) (opKind (encode i).word == 1#2) = some e) :
    exec i s = .next (busError e (opOffset (encode i).word) (opKind (encode i).word == 1#2) s) := by
  cases i
  case edge c => exact absurd ha (by clear h ha hwf; revert c; decide)
  case tickUs => exact absurd ha (by decide)
  case reset => exact absurd ha (by decide)
  all_goals
    simp only [encode, presentRd_eq, presentWr_eq, opSize_presentBus, opOffset_presentBus,
      opKind_beq_presentBus] at h ⊢
  case unmapped acc a =>
    cases (busCheck_outside (isWrite acc) hwf).symm.trans h
    rfl
  case misaligned acc a =>
    cases (busCheck_misalign (isWrite acc) (bne_iff_ne.mp hwf)).symm.trans h
    rfl
  case badSize acc sz a =>
    cases (busCheck_size a (isWrite acc) (bne_iff_ne.mp hwf)).symm.trans h
    rfl
  case rdChDebounceUs | rdChWindowMs | rdChTimeoutMs | rdChPpr | rdChPeriodMs | rdChRate | rdChAlpha | rdChThresh
  | rdChMinOnMs | rdChMinOffMs | rdChKickDuty | rdChKickMs | rdChHoldMs | rdChSafe
  | rdChCurve0 | rdChCurve1 | rdChCurve2 | rdChCurve3 | rdChCurve4 =>
    exact congrArg Host.Outcome.next (readConfig_error h)
  case rdId | rdCfg | rdCtrl | rdErr | rdNowMs | rdNowUs | rdTemp | rdPresc
  | rdChLastTick | rdChCount | rdChBase | rdChRpm | rdChDelta | rdChWinEnd | rdChLastPulseMs | rdChLastEdgeUs
  | rdChCmd | rdChOut | rdChTTrans | rdChKickEnd | rdChInvSince =>
    exact congrArg Host.Outcome.next (busRead_error h)
  all_goals exact congrArg Host.Outcome.next (busWrite_error h)

/-- The bus error, field by field (R300, R301). -/
theorem busError_eq_erred (e : BusErr) (a : Offset) (wr : Bool) (s : State) : busError e a wr s = erred e a wr s := by
  by_cases h : s.err.code = none
  · simp [busError, answer, erred, recordError_first e a wr h, h]
  · simp [busError, answer, erred, recordError_later e a wr h, h]

/-- Settles O26: the access is to a register of channel `c`, for which BusCheck answers UNMAPPED. -/
theorem absentChannelsAreUnmapped : Obligations.AbsentChannelsAreUnmapped := by
  intro s i c ix wr hwf hc hword
  obtain ⟨acc, rfl⟩ : ∃ acc, isWrite acc = wr := by
    cases wr
    · exact ⟨.rd, rfl⟩
    · exact ⟨.wr 0#32, rfl⟩
  generalize ha : chanOffset c (ix ++ 0#2 : BitVec 7) = a
  have hnum := chanOffset_index_toNat c ix
  rw [ha] at hnum
  have hw : (encode i).word = (presentBus acc 2#2 a).word := by
    apply BitVec.eq_of_toNat_eq
    rw [hword, presentBus_toNat, hnum]
    cases acc <;> simp [isWrite] <;> omega
  have hhost : agentOf i = .host := by cases acc <;> simp [agentOf, hw]
  have hcheck : busCheck s.nch 2#2 a (isWrite acc) = some .unmapped := by
    rw [← ha, busCheck_channel _ _ _ _ (index_low ix), if_neg (Nat.not_lt.mpr hc)]
  have hexec := exec_of_busCheck_error (e := .unmapped) hwf hhost (by simpa [hw] using hcheck)
  rw [hexec, ← hnum, BitVec.ofNat_toNat, BitVec.setWidth_eq, ← busError_eq_erred, hw, opOffset_presentBus,
    opKind_beq_presentBus]

end Sys2Proof.Machine
end

section
/-! Independence of the channels (10_state.md R31; 42_fan_controller.md R169), settling O52: what each operation leaves in
channel `c` is a function of EN, the timebase, TEMP, NCH and channel `c` alone. -/

namespace Sys2Proof.Machine

/-! ### Channel `c` after an operation, by channel `c` before it -/

theorem SameButErrPort.chanAt {s t : State} (h : SameButErrPort s t) (c : ChanIx) : chanAt t c = chanAt s c := by
  obtain ⟨_, _, rfl⟩ := h
  rfl

theorem chanAt_writeCtrl (v : Word) (s : State) (c : ChanIx) :
    chanAt (writeCtrl v s) c =
      if (s.en = false ∧ v.getLsbD 0 = true) ∧ c.toNat < s.nch then startChannel s.nowMs s.nowUs (chanAt s c)
      else chanAt s c := by
  have hchans := writeCtrl_chans v s
  by_cases hs : s.en = false ∧ v.getLsbD 0 = true
  · rw [if_pos hs] at hchans
    simp only [chanAt_map hchans, hs, and_self, true_and]
  · rw [if_neg hs] at hchans
    rw [chanAt_congr hchans, if_neg fun h => hs h.1]

theorem chanAt_msEvent (s : State) (c : ChanIx) :
    chanAt (msEvent s) c =
      if s.en = true ∧ c.toNat < s.nch then channelMs s.nowMs s.temp (chanAt s c) else chanAt s c := by
  have hchans := msEvent_chans s
  by_cases he : s.en = true
  · rw [if_pos he] at hchans
    simp only [chanAt_map hchans, he, true_and]
  · rw [if_neg he] at hchans
    rw [chanAt_congr hchans, if_neg fun h => he h.1]

theorem chanAt_tickUs {s t : State} (h : execTickUs s = .next t) (c : ChanIx) :
    chanAt t c =
      if s.presc.toNat = 999 ∧ s.en = true ∧ c.toNat < s.nch then channelMs (s.nowMs + 1#32) s.temp (chanAt s c)
      else chanAt s c := by
  by_cases hp : s.presc.toNat = 999
  · rw [execTickUs_ms hp] at h
    cases h
    simp only [chanAt_msEvent, hp, true_and]
    rfl
  · rw [execTickUs_quiet hp] at h
    cases h
    simp only [hp, false_and, if_false]
    rfl

theorem chanAt_reset {s t : State} (h : execReset s = .next t) (c : ChanIx) :
    chanAt t c = if c.toNat < s.nch then resetChannel (chanAt s c) else chanAt s c := by
  cases h
  exact chanAt_map rfl c

/-- Settles O52: each operation's equation for channel `c` mentions only what the two states agree on. -/
theorem channelsAreIndependent : Obligations.ChannelsAreIndependent := by
  intro i s₁ s₂ t₁ t₂ c hen hnowMs hnowUs hpresc htemp hnch hchan h₁ h₂
  have of_effect {e : State → State} (he : RegisterEffect i e) (h : chanAt (e s₁) c = chanAt (e s₂) c) :
      chanAt t₁ c = chanAt t₂ c :=
    ((he _ _ h₁).chanAt c).trans (h.trans ((he _ _ h₂).chanAt c).symm)
  have of_update (d : ChanIx) (f : Channel → Channel) : chanAt (updateChan d f s₁) c = chanAt (updateChan d f s₂) c := by
    simp only [chanAt_updateChan_ite, hnch, hchan]
  rcases instr_effect_cases i with he | ⟨d, f, he⟩ | ⟨v, rfl⟩ | ⟨v, rfl⟩ | ⟨d, rfl⟩ | rfl | rfl
  · exact of_effect he hchan
  · exact of_effect he (of_update d _)
  · exact of_effect (registerEffect_wrCtrl v) (by simp only [chanAt_writeCtrl, hen, hnowMs, hnowUs, hnch, hchan])
  · exact of_effect (registerEffect_wrTemp v) hchan
  · refine of_effect (registerEffect_edge d) ?_
    rw [hen, hnowUs, hnowMs]
    split
    · exact of_update d _
    · exact hchan
  · simp only [chanAt_tickUs h₁, chanAt_tickUs h₂, hpresc, hen, hnowMs, htemp, hnch, hchan]
  · simp only [chanAt_reset h₁, chanAt_reset h₂, hnch, hchan]

end Sys2Proof.Machine
end

section
/-! The reset and start values (10_state.md R49, R65) and the PWM output (R66), settling O11 and O50. -/

namespace Sys2Proof.Machine

/-! ### Reset and start values -/

/-- Every channel of the reset state is the reset channel, for every NCH (R49, R65). -/
theorem eq_reset_of_mem_resetWith {n : Nat} {ch : Channel} (h : ch ∈ (State.resetWith n).chans) : ch = Channel.reset :=
  List.eq_of_mem_replicate h

@[simp] theorem nch_resetWith (n : Nat) : (State.resetWith n).nch = n := List.length_replicate

theorem memRead_id (s : State) : memRead s 0x000#12 = Config.idValue := memRead_global rfl

/-- CFG reads NCH in its three bits (R24). -/
theorem memRead_cfg_toNat (s : State) : (memRead s 0x004#12).toNat = s.nch % 8 :=
  (congrArg BitVec.toNat (memRead_global rfl)).trans (cfgWord_toNat s)

/-- A WR CTRL that raises EN is a start, and nothing else changes but EN (R224, R226). -/
theorem writeCtrl_start {s : State} {v : Word} (he : s.en = false) (hv : v.getLsbD 0 = true) :
    writeCtrl v s = startAll { s with en := true } := by
  simp only [writeCtrl, he, hv, Bool.not_false, Bool.and_self, if_true]

theorem exec_wrCtrl_start {s : State} (he : s.en = false) :
    exec (.wrCtrl 1#32) s = .next (answer .ok none (startAll { s with en := true })) :=
  congrArg (fun t => Host.Outcome.next (answer .ok none t)) (writeCtrl_start (v := 1#32) he rfl)

/-- Settles O11: the reset state's fields by evaluation, a start by its equation. -/
theorem resetStateHoldsTheResetValues : Obligations.ResetStateHoldsTheResetValues := by
  refine ⟨rfl, rfl, rfl, rfl, rfl, rfl, rfl, fun n ch hch => eq_reset_of_mem_resetWith hch,
    fun n hn => ⟨memRead_id _, ?_⟩, fun s he => ⟨_, exec_wrCtrl_start he, fun ch hch => ?_⟩, fun s t he ht => ?_⟩
  · rw [memRead_cfg_toNat, nch_resetWith, Nat.mod_eq_of_lt hn]
  · obtain ⟨ch₀, -, rfl⟩ := List.mem_map.mp hch
    exact ⟨rfl, rfl, rfl⟩
  · rw [exec_wrCtrl_start he] at ht
    cases ht
    exact ⟨rfl, by simp⟩

/-! ### The PWM output -/

/-- OUT of a legal controller state is at most 100: it is OUTQ, at most 25600, as an integer percent (R59, R168). -/
theorem CtlState.Legal.out_le {u : CtlState} (h : u.Legal) : u.out.toNat ≤ 100 := by
  obtain ⟨-, -, houtq, hout, -, -⟩ := h
  omega

/-- The PWM output of a running block is OUT (R66). -/
theorem pwmDuty_running {s : State} (h : s.en = true) (c : ChanIx) : pwmDuty s c = (chanAt s c).ctl.out := by
  simp [pwmDuty, h]

/-- The PWM output of a stopped block is 0 (R66). -/
theorem pwmDuty_stopped {s : State} (h : s.en = false) (c : ChanIx) : pwmDuty s c = 0#7 := by
  simp [pwmDuty, h]

/-- Settles O50: OUT of a legal channel while the block runs, and 0 while it is stopped. -/
theorem pwmIsAnIntegerPercent : Obligations.PwmIsAnIntegerPercent := by
  intro s c ch h hget
  obtain ⟨-, -, -, hchans⟩ := h
  obtain ⟨-, -, hctl⟩ := hchans ch (List.mem_of_getElem? hget)
  have hrun (he : s.en = true) : pwmDuty s c = ch.ctl.out := by rw [pwmDuty_running he, chanAt_eq_of_get hget]
  refine ⟨?_, hrun, fun he => pwmDuty_stopped he c⟩
  cases he : s.en
  · simp [pwmDuty_stopped he]
  · exact hrun he ▸ hctl.out_le

end Sys2Proof.Machine
end

section
/-! Every register row of the table is the access envelope of R220 over the register map (20_memory.md R70, R71): the bridge
from the table's meanings to `memRead` and `memWrite`. What an access leaves and what it does when repeated are then facts
about the register map; here for the reads (20_memory.md R75, R76), settling O29. -/

namespace Sys2Proof.Machine

/-! ### The offset of a register row -/

theorem globalOffset_fields : ∀ ix : BitVec 3,
    (0#7 ++ ix ++ 0#2 : Offset).extractLsb' 5 7 = 0#7 ∧ (0#7 ++ ix ++ 0#2 : Offset).extractLsb' 2 3 = ix := by decide

theorem index_high : ∀ ix : BitVec 5, (ix ++ 0#2 : BitVec 7).extractLsb' 2 5 = ix := by decide

theorem index_toNat (ix : BitVec 5) : (ix ++ 0#2 : BitVec 7).toNat = 4 * ix.toNat := by
  rw [append_toNat, BitVec.toNat_ofNat]
  omega

/-! ### The meaning of a register row, by its index in the map (R22) -/

theorem exec_decodeGlobal_rd (ix : BitVec 3) (s : State) :
    exec (decodeGlobal .rd ix) s = .next (busRead (0#7 ++ ix ++ 0#2) (fun s => globalWord s ix.toNat) s) := by
  induction ix using bitVec3_cases with
  | h n => fin_cases n <;> rfl

theorem exec_decodeGlobal_wr (v : Word) (ix : BitVec 3) (s : State) :
    exec (decodeGlobal (.wr v) ix) s =
      .next (busWrite (0#7 ++ ix ++ 0#2) (fun s => memWrite s (0#7 ++ ix ++ 0#2) v) s) := by
  induction ix using bitVec3_cases with
  | h n => fin_cases n <;> rfl

theorem exec_decodeChannel_rd (c : ChanIx) (ix : BitVec 5) (s : State) :
    exec (decodeChannel .rd c ix) s =
      .next (readChannel c (ix ++ 0#2 : BitVec 7) (fun ch => channelWord ch ix.toNat) s) := by
  induction ix using bitVec5_cases with
  | h n => fin_cases n <;> rfl

theorem exec_decodeChannel_wr (v : Word) (c : ChanIx) (ix : BitVec 5) (s : State) :
    exec (decodeChannel (.wr v) c ix) s =
      .next (if ix.toNat < 19 then writeConfig c (ix ++ 0#2 : BitVec 7) (configWith ix.toNat v) s
        else busWriteReadOnly (chanOffset c (ix ++ 0#2 : BitVec 7)) s) := by
  induction ix using bitVec5_cases with
  | h n => fin_cases n <;> rfl

/-! ### The envelope of a row and the envelope of the map (R220) -/

theorem busRead_eq_busAccess {a : Offset} {value : State → Word} {s : State}
    (h : busCheck s.nch 2#2 a false = none → value s = memRead s a) : busRead a value s = busAccess .rd 2#2 a s := by
  rcases hb : busCheck s.nch 2#2 a false with _ | e
  · rw [busRead_ok hb, busAccess_rd hb, h hb]
  · exact (busRead_error hb).trans (busAccess_error (acc := .rd) hb).symm

theorem busWrite_eq_busAccess {a : Offset} {write : State → State} {s : State} {v : Word}
    (h : busCheck s.nch 2#2 a true = none → write s = memWrite s a v) :
    busWrite a write s = busAccess (.wr v) 2#2 a s := by
  rcases hb : busCheck s.nch 2#2 a true with _ | e
  · rw [busWrite_ok hb, busAccess_wr hb, h hb]
  · exact (busWrite_error hb).trans (busAccess_error (acc := .wr v) hb).symm

theorem exec_decodeGlobal (acc : Access) (ix : BitVec 3) (s : State) :
    exec (decodeGlobal acc ix) s = .next (busAccess acc 2#2 (0#7 ++ ix ++ 0#2) s) := by
  obtain ⟨h5, h2⟩ := globalOffset_fields ix
  cases acc with
  | rd => rw [exec_decodeGlobal_rd, busRead_eq_busAccess fun _ => by rw [memRead_global h5, h2]]
  | wr v => rw [exec_decodeGlobal_wr, busWrite_eq_busAccess fun _ => rfl]

/-- An access that BusCheck passes is to a channel that exists. -/
theorem lt_of_busCheck_channel {nch : Nat} {c : ChanIx} {rel : BitVec 7} {wr : Bool} (h0 : rel.extractLsb' 0 2 = 0#2)
    (h : busCheck nch 2#2 (chanOffset c rel) wr = none) : c.toNat < nch := by
  by_contra hc
  rw [busCheck_channel _ _ _ _ h0, if_neg hc] at h
  cases h

/-- BusCheck never passes a write of a status register, whether its channel exists or not. -/
theorem busCheck_status_write {nch : Nat} {c : ChanIx} {rel : BitVec 7} (h0 : rel.extractLsb' 0 2 = 0#2)
    (hrel : 0x4C ≤ rel.toNat) : busCheck nch 2#2 (chanOffset c rel) true ≠ none := by
  rw [busCheck_channel _ _ _ _ h0]
  split <;> simp [hrel]

theorem exec_decodeChannel (acc : Access) (c : ChanIx) (ix : BitVec 5) (s : State) :
    exec (decodeChannel acc c ix) s = .next (busAccess acc 2#2 (chanOffset c (ix ++ 0#2 : BitVec 7)) s) := by
  have h0 := index_low ix
  cases acc with
  | rd =>
    rw [exec_decodeChannel_rd, readChannel, busRead_eq_busAccess fun hb => ?_]
    rw [memRead_channel h0 (lt_of_busCheck_channel h0 hb), index_high]
  | wr v =>
    rw [exec_decodeChannel_wr]
    split
    · rw [writeConfig, busWrite_eq_busAccess fun _ => ?_]
      rw [memWrite_channel _ _ _ _ h0, index_high]
    · have hrel : 0x4C ≤ (ix ++ 0#2 : BitVec 7).toNat := by
        rw [index_toNat]
        omega
      rw [busWriteReadOnly, busWrite_eq_busAccess fun hb => absurd hb (busCheck_status_write h0 hrel)]

/-- The row that the decoder gives an access, register row or error row, is the envelope of that access. -/
theorem exec_decodeBus (acc : Access) (sz : BitVec 2) (a : Offset) (s : State) :
    exec (decodeBus acc sz a) s = .next (busAccess acc sz a s) := by
  unfold decodeBus
  split
  case isTrue hsz =>
    rw [busAccess_error (busCheck_size a _ hsz)]
    rfl
  case isFalse hsz =>
  obtain rfl : sz = 2#2 := not_not.mp hsz
  split
  case isTrue h0 =>
    rw [busAccess_error (busCheck_misalign _ h0)]
    rfl
  case isFalse h0 =>
  replace h0 : a.extractLsb' 0 2 = 0#2 := not_not.mp h0
  split
  case isTrue h5 => rw [exec_decodeGlobal, offset_of_global a h0 h5]
  case isFalse h5 =>
  split
  case isTrue h9 => rw [exec_decodeChannel, offset_of_channel a h0 h9]
  case isFalse h9 =>
    have hb : busCheck s.nch 2#2 a (isWrite acc) = some .unmapped := by simp [busCheck, mapped, h0, h5, h9]
    rw [busAccess_error hb, exec, execUnmapped, unmappedOffset_of_aligned a h0]

/-- Every operation that the host presents is the decoder's row of a word access, or an error row, which raises its own error
in every state, whatever its fields (log 13). -/
theorem host_cases {i : Instr} (h : agentOf i = .host) :
    (∃ acc a, encode i = presentBus acc 2#2 a ∧ decodeBus acc 2#2 a = i) ∨
      ∃ acc sz a e, encode i = presentBus acc sz a ∧ ∀ s, exec i s = .next (busError e a (isWrite acc) s) := by
  cases i
  case edge c => exact absurd h (by clear h; revert c; decide)
  case tickUs => exact absurd h (by decide)
  case reset => exact absurd h (by decide)
  case unmapped acc a => exact .inr ⟨acc, _, _, _, rfl, fun _ => rfl⟩
  case misaligned acc a => exact .inr ⟨acc, _, _, _, rfl, fun _ => rfl⟩
  case badSize acc sz a => exact .inr ⟨acc, _, _, _, rfl, fun _ => rfl⟩
  case rdId | rdCfg | rdCtrl | rdErr | rdNowMs | rdNowUs | rdTemp | rdPresc => exact .inl ⟨.rd, _, presentRd_eq _, rfl⟩
  case wrId | wrCfg | wrCtrl | wrErr | wrNowMs | wrNowUs | wrTemp | wrPresc =>
    exact .inl ⟨.wr _, _, presentWr_eq _ _, rfl⟩
  case rdChDebounceUs | rdChWindowMs | rdChTimeoutMs | rdChPpr | rdChPeriodMs | rdChRate | rdChAlpha | rdChThresh
  | rdChMinOnMs | rdChMinOffMs | rdChKickDuty | rdChKickMs | rdChHoldMs | rdChSafe
  | rdChCurve0 | rdChCurve1 | rdChCurve2 | rdChCurve3 | rdChCurve4
  | rdChLastTick | rdChCount | rdChBase | rdChRpm | rdChDelta | rdChWinEnd | rdChLastPulseMs | rdChLastEdgeUs
  | rdChCmd | rdChOut | rdChTTrans | rdChKickEnd | rdChInvSince =>
    exact .inl ⟨.rd, _, presentRd_eq _, by rw [decodeBus_channel] <;> rfl⟩
  all_goals exact .inl ⟨.wr _, _, presentWr_eq _ _, by rw [decodeBus_channel] <;> rfl⟩

/-- Everything a bus access can do: raise an error, or pass BusCheck as the decoder's row of a word access. -/
theorem host_outcome {i : Instr} {s t : State} (hhost : agentOf i = .host) (ht : exec i s = .next t) :
    (∃ acc sz a e, encode i = presentBus acc sz a ∧ t = busError e a (isWrite acc) s) ∨
      ∃ acc a, encode i = presentBus acc 2#2 a ∧ decodeBus acc 2#2 a = i ∧
        busCheck s.nch 2#2 a (isWrite acc) = none ∧ t = busAccess acc 2#2 a s := by
  rcases host_cases hhost with ⟨acc, a, henc, rfl⟩ | ⟨acc, sz, a, e, henc, hexec⟩
  · cases (exec_decodeBus acc 2#2 a s).symm.trans ht
    rcases hb : busCheck s.nch 2#2 a (isWrite acc) with _ | e
    · exact .inr ⟨acc, a, henc, rfl, hb, rfl⟩
    · exact .inl ⟨acc, 2#2, a, e, henc, busAccess_error hb⟩
  · cases (hexec s).symm.trans ht
    exact .inl ⟨acc, sz, a, e, henc, rfl⟩

theorem agentOf_host {i : Instr} (h : opKind (encode i).word = 0#2 ∨ opKind (encode i).word = 1#2) :
    agentOf i = .host := by
  rcases h with h | h <;> simp [agentOf, h]

theorem eq_rd_of_opKind {acc : Access} {sz : BitVec 2} {a : Offset} (h : opKind (presentBus acc sz a).word = 0#2) :
    acc = .rd := by
  cases acc
  · rfl
  · simp at h

theorem eq_wr_of_opKind {acc : Access} {sz : BitVec 2} {a : Offset} (h : opKind (presentBus acc sz a).word = 1#2) :
    ∃ v, acc = .wr v := by
  cases acc with
  | rd => simp at h
  | wr v => exact ⟨v, rfl⟩

/-! ### Reads (R75, R76) -/

theorem memRead_answer (st : Status) (rd : Option Word) (s : State) (a : Offset) :
    memRead (answer st rd s) a = memRead s a := rfl

/-- The same read again returns the same: the read value does not depend on the port. -/
theorem exec_rd_again {s : State} {a : Offset} (h : busCheck s.nch 2#2 a false = none) :
    exec (decodeBus .rd 2#2 a) (answer .ok (some (memRead s a)) s) = .next (answer .ok (some (memRead s a)) s) := by
  have hb : busCheck (answer .ok (some (memRead s a)) s).nch 2#2 a false = none := h
  rw [exec_decodeBus, busAccess_rd hb, memRead_answer]
  rfl

/-- Settles O29: a read that BusCheck passes is answered with the read value; any other is a bus error. -/
theorem readsHaveNoSideEffect : Obligations.ReadsHaveNoSideEffect := by
  intro i s t hkind ht
  rcases host_outcome (agentOf_host (.inl hkind)) ht with ⟨acc, sz, a, e, henc, rfl⟩ | ⟨acc, a, henc, rfl, hb, rfl⟩
  · obtain rfl := eq_rd_of_opKind (henc ▸ hkind)
    exact .inr rfl
  · obtain rfl := eq_rd_of_opKind (henc ▸ hkind)
    rw [busAccess_rd hb]
    exact .inl ⟨memRead s a, rfl, exec_rd_again hb⟩

end Sys2Proof.Machine
end

section
/-! The register that a write changes (20_memory.md R75, R77; 45_bus_channel.md R250), settling O21: over the register map, a
write other than to CTRL leaves every other word, an error shows in ERR alone, and a write repeated changes nothing. -/

namespace Sys2Proof.Machine

/-! ### The register that a write leaves alone (R75) -/

/-- Two states read alike at an offset if they have the same channel count and, at the register that stands there, the
same value. -/
theorem memRead_congr {s t : State} {a : Offset} (hn : t.nch = s.nch)
    (hglobal : a.extractLsb' 5 7 = 0#7 → globalWord t (a.extractLsb' 2 3).toNat = globalWord s (a.extractLsb' 2 3).toNat)
    (hchan : a.extractLsb' 9 3 = 1#3 → (a.extractLsb' 7 2).toNat < s.nch →
      channelWord (chanAt t (a.extractLsb' 7 2)) (a.extractLsb' 2 5).toNat =
        channelWord (chanAt s (a.extractLsb' 7 2)) (a.extractLsb' 2 5).toNat) : memRead t a = memRead s a := by
  by_cases h5 : a.extractLsb' 5 7 = 0#7
  · rw [memRead_global h5, memRead_global h5, hglobal h5]
  by_cases h9 : a.extractLsb' 9 3 = 1#3
  · rw [memRead_window h5 h9, memRead_window h5 h9, hn]
    split
    · exact hchan h9 ‹_›
    · rfl
  · rw [memRead_outside h5 h9, memRead_outside h5 h9]

/-- The number of a word of the global block (R22). -/
theorem globalWord_number {a : Offset} (h : a.extractLsb' 5 7 = 0#7) : (a.extractLsb' 2 3).toNat = a.toNat / 4 := by
  have h5 := congrArg BitVec.toNat h
  simp [Nat.shiftRight_eq_div_pow] at h5 ⊢
  omega

/-- The number of a word of the channel windows (R22). -/
theorem windowWord_number {a : Offset} (h : a.extractLsb' 9 3 = 1#3) :
    0x80 + 0x20 * (a.extractLsb' 7 2).toNat + (a.extractLsb' 2 5).toNat = a.toNat / 4 := by
  have h9 := congrArg BitVec.toNat h
  simp [Nat.shiftRight_eq_div_pow] at h9 ⊢
  omega

theorem globalWord_withErr (s : State) (e : ErrReg) {ix : Nat} (h : ix ≠ 3) :
    globalWord { s with err := e } ix = globalWord s ix := by
  unfold globalWord
  split
  case h_4 => exact absurd rfl h
  all_goals rfl

theorem globalWord_withTemp (s : State) (p : Temp) {ix : Nat} (h : ix ≠ 6) :
    globalWord { s with temp := p } ix = globalWord s ix := by
  unfold globalWord
  split
  case h_7 => exact absurd rfl h
  all_goals rfl

theorem globalWord_updateChan (c : ChanIx) (f : Channel → Channel) (s : State) (ix : Nat) :
    globalWord (updateChan c f s) ix = globalWord s ix := by
  unfold globalWord
  split
  case h_2 => rw [cfgWord, cfgWord, nch_updateChan]
  all_goals rfl

/-- ERR shows at its own word alone. -/
theorem memRead_withErr (s : State) (e : ErrReg) {b : Offset} (h : b.toNat / 4 ≠ 3) :
    memRead { s with err := e } b = memRead s b :=
  memRead_congr rfl (fun h5 => globalWord_withErr s e (globalWord_number h5 ▸ h)) fun _ _ => rfl

/-- TEMP shows at its own word alone. -/
theorem memRead_withTemp (s : State) (p : Temp) {b : Offset} (h : b.toNat / 4 ≠ 6) :
    memRead { s with temp := p } b = memRead s b :=
  memRead_congr rfl (fun h5 => globalWord_withTemp s p (globalWord_number h5 ▸ h)) fun _ _ => rfl

/-- A configuration register shows at its own word alone. -/
theorem memRead_withConfig (s : State) (v : Word) {a b : Offset} (h9 : a.extractLsb' 9 3 = 1#3)
    (h : b.toNat / 4 ≠ a.toNat / 4) :
    memRead (updateChan (a.extractLsb' 7 2)
      (fun ch => { ch with cfg := configWith (a.extractLsb' 2 5).toNat v ch.cfg }) s) b = memRead s b := by
  refine memRead_congr (nch_updateChan _ _ s) (fun _ => globalWord_updateChan _ _ s _) fun hb9 hlt => ?_
  rw [chanAt_updateChan _ _ _ _ hlt]
  split
  case isTrue hc =>
    refine channelWord_configWith v _ fun hix => h ?_
    rw [← windowWord_number h9, ← windowWord_number hb9, hc, hix]
  case isFalse => rfl

/-- A write other than to CTRL leaves the read value at every other word. -/
theorem memRead_memWrite_other (s : State) (v : Word) {a b : Offset} (ha : a ≠ 0x008#12)
    (h : b.toNat / 4 ≠ a.toNat / 4) : memRead (memWrite s a v) b = memRead s b := by
  unfold memWrite
  rw [if_neg ha]
  split
  case isTrue hC =>
    subst hC
    exact memRead_withErr s _ h
  case isFalse =>
  split
  case isTrue h18 =>
    subst h18
    exact memRead_withTemp s _ h
  case isFalse =>
  split
  case isTrue h9 => exact memRead_withConfig s v h9 h
  case isFalse => rfl

/-! ### The same write again (R77) -/

/-- Everything a write to CTRL can do: a start, or EN alone (R224, R225, R226). -/
theorem writeCtrl_eq (v : Word) (s : State) :
    writeCtrl v s =
      if s.en = false ∧ v.getLsbD 0 = true then startAll { s with en := true } else { s with en := v.getLsbD 0 } := by
  unfold writeCtrl stopAll
  cases s.en <;> cases v.getLsbD 0 <;> rfl

/-- A write to CTRL that does not change EN changes nothing (R224). -/
theorem writeCtrl_of_en {v : Word} {s : State} (h : s.en = v.getLsbD 0) : writeCtrl v s = s := by
  rw [writeCtrl_eq, if_neg (by simp [h]), ← h]

theorem writeCtrl_answer (v : Word) (st : Status) (rd : Option Word) (s : State) :
    writeCtrl v (answer st rd s) = answer st rd (writeCtrl v s) := by
  rw [writeCtrl_eq, writeCtrl_eq, answer_en]
  split <;> rfl

theorem updateChan_twice (c : ChanIx) {f : Channel → Channel} (h : ∀ ch, f (f ch) = f ch) (s : State) :
    updateChan c f (updateChan c f s) = updateChan c f s := by
  have hf : f ∘ f = f := funext h
  rw [updateChan, updateChan_chans, List.modify_modify_eq, hf]
  rfl

theorem memWrite_twice (s : State) (a : Offset) (v : Word) : memWrite (memWrite s a v) a v = memWrite s a v := by
  unfold memWrite
  split
  · exact writeCtrl_of_en (writeCtrl_en v s)
  split
  · rfl
  split
  · rfl
  split
  · exact updateChan_twice _ (fun ch => by rw [configWith_twice]) s
  · rfl

/-- A write does not depend on the port and leaves it. -/
theorem memWrite_answer (st : Status) (rd : Option Word) (s : State) (a : Offset) (v : Word) :
    memWrite (answer st rd s) a v = answer st rd (memWrite s a v) := by
  unfold memWrite
  split
  · exact writeCtrl_answer v st rd s
  split
  · rfl
  split
  · rfl
  split <;> rfl

/-- The same write again leaves what the first left (R77). -/
theorem exec_wr_again {s : State} {a : Offset} {v : Word} (h : busCheck s.nch 2#2 a true = none) :
    exec (decodeBus (.wr v) 2#2 a) (answer .ok none (memWrite s a v)) = .next (answer .ok none (memWrite s a v)) := by
  have hb : busCheck (answer .ok none (memWrite s a v)).nch 2#2 a true = none := by rwa [nch_answer, nch_memWrite]
  rw [exec_decodeBus, busAccess_wr hb, memWrite_answer, memWrite_twice]
  rfl

/-- Settles O21: an error leaves all but ERR, and a write that BusCheck passes is a write of the register map. -/
theorem writesLeaveEveryOtherRegister : Obligations.WritesLeaveEveryOtherRegister := by
  intro i s t hkind ht
  rcases host_outcome (agentOf_host (.inr hkind)) ht with ⟨acc, sz, a, e, henc, rfl⟩ | ⟨acc, a, henc, rfl, hb, rfl⟩
  · obtain ⟨v, rfl⟩ := eq_wr_of_opKind (henc ▸ hkind)
    exact ⟨fun _ => nofun, fun _ b => memRead_withErr s _, nofun⟩
  · obtain ⟨v, rfl⟩ := eq_wr_of_opKind (henc ▸ hkind)
    rw [busAccess_wr hb, henc, opOffset_presentBus]
    refine ⟨fun hne _ b => memRead_memWrite_other s v ?_, nofun, fun _ => exec_wr_again hb⟩
    rintro rfl
    exact hne v rfl

end Sys2Proof.Machine
end

section
/-! The step and the byte lanes (20_memory.md R71, R73; 30_encoding.md R95), settling O6 and O54. -/

namespace Sys2Proof.Machine

/-! ### The step (R71, R95) -/

theorem step_idle {s : State} (h : s.pending = []) : step s = .next s := by
  simp only [step, nextOperation_none h]

theorem step_decoded {s : State} {p : Presented} {rest : List Presented} {i : Instr} (hp : s.pending = p :: rest)
    (hd : decode s.nch p = .ok i) : step s = exec i { s with pending := rest } := by
  have hd' : decode (State.nch { s with pending := rest }) p = .ok i := hd
  simp only [step, nextOperation_some hp, hd']

theorem step_refused {s : State} {p : Presented} {rest : List Presented} {e : DecodeError} (hp : s.pending = p :: rest)
    (hd : decode s.nch p = .error e) : step s = .refused (refusalOf e) := by
  have hd' : decode (State.nch { s with pending := rest }) p = .error e := hd
  simp only [step, nextOperation_some hp, hd']

/-- Settles O6: one lemma for each of the step's outcomes. -/
theorem stepRunsTheDecodedOperation : Obligations.StepRunsTheDecodedOperation := fun _ =>
  ⟨fun _ _ _ => step_decoded, fun _ _ => step_refused, fun _ _ => step_refused, step_idle⟩

/-! ### The byte lanes (R73) -/

theorem byteLane_toNat (v : Word) (k : Fin 4) : (byteLane v k).toNat = v.toNat / 2 ^ (8 * k.val) % 256 := by
  rw [byteLane, BitVec.extractLsb'_toNat, Nat.shiftRight_eq_div_pow]

theorem wordOfLanes_toNat (b0 b1 b2 b3 : BitVec 8) :
    (wordOfLanes b0 b1 b2 b3).toNat = b3.toNat * 2 ^ 24 + b2.toNat * 2 ^ 16 + b1.toNat * 2 ^ 8 + b0.toNat := by
  simp only [wordOfLanes, append_toNat]
  omega

/-- Settles O54: a word is the sum of its four digits to the base 256. -/
theorem byteLanesAreLittleEndian : Obligations.ByteLanesAreLittleEndian := by
  intro v
  refine ⟨byteLane_toNat v, BitVec.eq_of_toNat_eq ?_⟩
  have hv := v.isLt
  have hthree : (3 : Fin 4).val = 3 := rfl
  simp only [wordOfLanes_toNat, byteLane_toNat, Fin.val_zero, Fin.val_one, Fin.val_two, hthree]
  omega

end Sys2Proof.Machine
end

section
/-! The decoder and the encoder are inverse to each other (30_encoding.md R91 to R99), settling O1 to O4. Every
well-formed operation of the bus is the decoder's row of its own access, and the row of an access encodes to that access; the
words that are no operation are those whose number no EDGE and no SYS word has. -/

namespace Sys2Proof

/-! ### The decoder, by the kind of the word (R90, R95) -/

theorem decode_rdKind {p : Presented} (nch : Nat) (h : opKind p.word = 0#2) :
    decode nch p = .ok (decodeBus .rd (opSize p.word) (opOffset p.word)) := if_pos h

theorem decode_wrKind {p : Presented} (nch : Nat) (h : opKind p.word = 1#2) :
    decode nch p = .ok (decodeBus (.wr p.wdata) (opSize p.word) (opOffset p.word)) := by
  simp [decode, h]

theorem decode_edgeKind {p : Presented} (nch : Nat) (h : opKind p.word = 2#2) :
    decode nch p =
      if opSize p.word = 0#2 ∧ (opOffset p.word).extractLsb' 2 10 = 0#10 ∧
          ((opOffset p.word).extractLsb' 0 2).toNat < nch
      then .ok (.edge ((opOffset p.word).extractLsb' 0 2)) else .error .noSuchTachInput := by
  rw [decode, if_neg (by simp [h]), if_neg (by simp [h]), if_pos h]

theorem decode_sysKind {p : Presented} (nch : Nat) (h : opKind p.word = 3#2) :
    decode nch p =
      if p.word = 0xC000#16 then .ok .tickUs else if p.word = 0xC001#16 then .ok .reset
      else .error .noSuchSystemEvent := by
  rw [decode, if_neg (by simp [h]), if_neg (by simp [h]), if_neg (by simp [h])]

/-- The four kinds of R90. -/
theorem opKind_cases (w : OpWord) : opKind w = 0#2 ∨ opKind w = 1#2 ∨ opKind w = 2#2 ∨ opKind w = 3#2 := by
  generalize opKind w = k
  revert k
  decide

/-! ### Decoding an encoded operation -/

theorem decodeBus_badSize {sz : BitVec 2} (acc : Access) (a : Offset) (h : sz ≠ 2#2) :
    decodeBus acc sz a = .badSize acc sz a := if_pos h

theorem decodeBus_misaligned {a : Offset} (acc : Access) (h : a.extractLsb' 0 2 ≠ 0#2) :
    decodeBus acc 2#2 a = .misaligned acc a := by
  simp [decodeBus, h]

theorem decodeBus_unmapped {a : BitVec 10} (acc : Access) (h : outsideRegisters (unmappedOffset a) = true) :
    decodeBus acc 2#2 (unmappedOffset a) = .unmapped acc a := by
  simp only [outsideRegisters, Bool.and_eq_true, bne_iff_ne] at h
  obtain ⟨h5, h9⟩ := h
  simp [decodeBus, unmappedOffset_low, unmappedOffset_high, h5, h9]

theorem decode_encode_of_row {nch : Nat} {i : Instr} {acc : Access} {sz : BitVec 2} {a : Offset}
    (henc : encode i = presentBus acc sz a) (hrow : decodeBus acc sz a = i) : decode nch (encode i) = .ok i := by
  rw [henc, decode_presentBus, hrow]

/-- The decoder reads the word of a well-formed operation as that operation (R95, R99). -/
theorem decode_encode {nch : Nat} {i : Instr} (h : wellFormed nch i = true) : decode nch (encode i) = .ok i := by
  cases i with
  | edge c => exact (decode_edgeWord nch c 0#32).trans (if_pos (of_decide_eq_true h))
  | tickUs | reset => rfl
  | unmapped acc a => exact decode_encode_of_row rfl (decodeBus_unmapped acc h)
  | misaligned acc a => exact decode_encode_of_row rfl (decodeBus_misaligned acc (bne_iff_ne.mp h))
  | badSize acc sz a => exact decode_encode_of_row rfl (decodeBus_badSize acc a (bne_iff_ne.mp h))
  | rdId | rdCfg | rdCtrl | rdErr | rdNowMs | rdNowUs | rdTemp | rdPresc =>
    exact decode_encode_of_row (presentRd_eq _) rfl
  | wrId | wrCfg | wrCtrl | wrErr | wrNowMs | wrNowUs | wrTemp | wrPresc =>
    exact decode_encode_of_row (presentWr_eq _ _) rfl
  | rdChDebounceUs | rdChWindowMs | rdChTimeoutMs | rdChPpr | rdChPeriodMs | rdChRate | rdChAlpha | rdChThresh
  | rdChMinOnMs | rdChMinOffMs | rdChKickDuty | rdChKickMs | rdChHoldMs | rdChSafe
  | rdChCurve0 | rdChCurve1 | rdChCurve2 | rdChCurve3 | rdChCurve4
  | rdChLastTick | rdChCount | rdChBase | rdChRpm | rdChDelta | rdChWinEnd | rdChLastPulseMs | rdChLastEdgeUs
  | rdChCmd | rdChOut | rdChTTrans | rdChKickEnd | rdChInvSince =>
    exact decode_encode_of_row (presentRd_eq _) (decodeBus_channel _ _ _ rfl)
  | wrChDebounceUs | wrChWindowMs | wrChTimeoutMs | wrChPpr | wrChPeriodMs | wrChRate | wrChAlpha | wrChThresh
  | wrChMinOnMs | wrChMinOffMs | wrChKickDuty | wrChKickMs | wrChHoldMs | wrChSafe
  | wrChCurve0 | wrChCurve1 | wrChCurve2 | wrChCurve3 | wrChCurve4
  | wrChLastTick | wrChCount | wrChBase | wrChRpm | wrChDelta | wrChWinEnd | wrChLastPulseMs | wrChLastEdgeUs
  | wrChCmd | wrChOut | wrChTTrans | wrChKickEnd | wrChInvSince =>
    exact decode_encode_of_row (presentWr_eq _ _) (decodeBus_channel _ _ _ rfl)

/-- Settles O1: the decoder's row of the access, constructor by constructor. -/
theorem decodeOfEncodeIsTheInstruction : Obligations.DecodeOfEncodeIsTheInstruction := fun _ _ => decode_encode

/-! ### Encoding a decoded operation -/

/-- The row of an access encodes to that access (R99). -/
theorem encode_decodeBus (acc : Access) (sz : BitVec 2) (a : Offset) :
    encode (decodeBus acc sz a) = presentBus acc sz a := by
  unfold decodeBus
  split
  case isTrue => rfl
  case isFalse hsz =>
  obtain rfl : sz = 2#2 := not_not.mp hsz
  split
  case isTrue => rfl
  case isFalse h0 =>
  replace h0 : a.extractLsb' 0 2 = 0#2 := not_not.mp h0
  split
  case isTrue h5 => rw [encode_decodeGlobal, offset_of_global a h0 h5]
  case isFalse =>
  split
  case isTrue h9 => rw [encode_decodeChannel, offset_of_channel a h0 h9]
  case isFalse => rw [encode, unmappedOffset_of_aligned a h0]

/-- Every access is some operation, whatever its size and offset (R95). -/
theorem wellFormed_decodeBus (nch : Nat) (acc : Access) (sz : BitVec 2) (a : Offset) :
    wellFormed nch (decodeBus acc sz a) = true := by
  unfold decodeBus
  split
  case isTrue hsz => exact bne_iff_ne.mpr hsz
  case isFalse =>
  split
  case isTrue h0 => exact bne_iff_ne.mpr h0
  case isFalse h0 =>
  split
  case isTrue => exact wf_decodeGlobal nch acc _
  case isFalse h5 =>
  split
  case isTrue => exact wf_decodeChannel nch acc _ _
  case isFalse h9 => simp [wellFormed, outsideRegisters, unmappedOffset_of_aligned a (not_not.mp h0), h5, h9]

/-- Settles O2: in each kind of word the fields make up the word, and the row that the decoder chose encodes them. -/
theorem encodeOfDecodeIsTheWord : Obligations.EncodeOfDecodeIsTheWord := by
  intro nch p i hd
  have hword := word_of_fields p.word
  rcases opKind_cases p.word with hk | hk | hk | hk
  · cases (decode_rdKind nch hk).symm.trans hd
    rw [hk] at hword
    refine ⟨wellFormed_decodeBus _ _ _ _, ?_, fun h => absurd (hk.symm.trans h) (by decide)⟩
    rw [encode_decodeBus]
    exact hword
  · cases (decode_wrKind nch hk).symm.trans hd
    rw [hk] at hword
    rw [encode_decodeBus]
    exact ⟨wellFormed_decodeBus _ _ _ _, hword, fun _ => rfl⟩
  · rw [decode_edgeKind nch hk] at hd
    split at hd
    case isTrue h =>
      obtain ⟨hs, ha, hc⟩ := h
      cases hd
      exact ⟨decide_eq_true hc, (edgeWord_of_fields p.word hk hs ha).symm,
        fun h => absurd (hk.symm.trans h) (by decide)⟩
    case isFalse => cases hd
  · rw [decode_sysKind nch hk] at hd
    have hread : opKind p.word ≠ 1#2 := fun h => absurd (hk.symm.trans h) (by decide)
    split at hd
    case isTrue hw =>
      cases hd
      exact ⟨rfl, hw.symm, fun h => absurd h hread⟩
    case isFalse =>
    split at hd
    case isTrue hw =>
      cases hd
      exact ⟨rfl, hw.symm, fun h => absurd h hread⟩
    case isFalse => cases hd

/-! ### The words that the decoder refuses -/

theorem opKind_toNat (w : OpWord) : (opKind w).toNat = w.toNat / 0x4000 := by
  have hw := w.isLt
  rw [opKind, BitVec.extractLsb'_toNat, Nat.shiftRight_eq_div_pow]
  omega

/-- A word of kind EDGE names channel c < NCH exactly when it is `0x8000 | c` (R92, R96). -/
theorem edgeFields_iff {w : OpWord} (nch : Nat) (hk : opKind w = 2#2) :
    (opSize w = 0#2 ∧ (opOffset w).extractLsb' 2 10 = 0#10 ∧ ((opOffset w).extractLsb' 0 2).toNat < nch) ↔
      w.toNat < 0x8004 ∧ w.toNat - 0x8000 < nch := by
  have hkind := opKind_toNat w
  rw [hk] at hkind
  simp only [← BitVec.toNat_inj, opSize, opOffset, BitVec.extractLsb'_toNat, Nat.shiftRight_eq_div_pow,
    BitVec.toNat_ofNat] at hkind ⊢
  omega

/-- Settles O3: kind by kind, the range of the word's number and the decoder's condition say the same. -/
theorem decoderRefusesExactlyTheUnusedWords : Obligations.DecoderRefusesExactlyTheUnusedWords := by
  intro nch p
  have hnum := opKind_toNat p.word
  rcases opKind_cases p.word with hk | hk | hk | hk
  all_goals
    rw [hk] at hnum
    simp only [BitVec.toNat_ofNat] at hnum
  · simp only [decode_rdKind nch hk, reduceCtorEq, false_iff]
    omega
  · simp only [decode_wrKind nch hk, reduceCtorEq, false_iff]
    omega
  · simp only [decode_edgeKind nch hk, edgeFields_iff nch hk]
    split <;> simp only [reduceCtorEq, Except.error.injEq, false_iff, true_iff] <;> omega
  · simp only [decode_sysKind nch hk, ← BitVec.toNat_inj, BitVec.toNat_ofNat]
    split
    case isTrue =>
      simp only [reduceCtorEq, false_iff]
      omega
    case isFalse =>
    split <;> simp only [reduceCtorEq, Except.error.injEq, false_iff, true_iff] <;> omega

/-! ### The words that the spec writes out (R99) -/

/-- Settles O4, by running the decoder on the seven words. -/
theorem wordsOfTheSpecDecode : Obligations.WordsOfTheSpecDecode := by
  unfold Obligations.WordsOfTheSpecDecode
  decide

end Sys2Proof
end

section
/-! The printer and the assembler (30_encoding.md R100), settling O5 and O55: the printer works on the fields of the word, the
assembler puts them together again, and the text of a line is read back as that line. -/

namespace Sys2Proof.Machine

/-! ### The printed line of each kind of word -/

theorem sizeBits_suffixOf : ∀ sz : BitVec 2, sizeBits (suffixOf sz) = sz := by decide

theorem globalOffset_globalRegAt : ∀ ix : BitVec 3, globalOffset (globalRegAt ix.toNat) = 0#7 ++ ix ++ 0#2 := by decide

theorem relOffset_channelRegAt : ∀ ix : BitVec 5, relOffset (channelRegAt ix.toNat) = ix ++ 0#2 := by decide

/-- The REG that the printer finds for an offset names that offset. -/
theorem regOffset_regAt (a : Offset) : regOffset (regAt a) = a := by
  unfold regAt
  split
  case isTrue => rfl
  case isFalse h0 =>
  replace h0 : a.extractLsb' 0 2 = 0#2 := not_not.mp h0
  split
  case isTrue h5 => rw [regOffset, globalOffset_globalRegAt, offset_of_global a h0 h5]
  case isFalse =>
  split
  case isTrue h9 => rw [regOffset, relOffset_channelRegAt, offset_of_channel a h0 h9]
  case isFalse => rfl

/-- The line of an access: its size suffix, its REG and, for a write, its WDATA as a literal. -/
def accessLine (acc : Access) (sz : BitVec 2) (a : Offset) : AsmLine :=
  match acc with
  | .rd => .rd (suffixOf sz) (regAt a)
  | .wr v => .wr (suffixOf sz) (regAt a) (.lit v.toNat)

theorem printLine_of_access {i : Instr} {acc : Access} {sz : BitVec 2} {a : Offset} (h : encode i = presentBus acc sz a) :
    printLine i = accessLine acc sz a := by
  cases acc <;> simp [printLine, accessLine, h]

theorem printLine_edge : ∀ c : ChanIx, printLine (.edge c) = .edge c.toNat := by decide

theorem printLine_tickUs : printLine .tickUs = .tickUs := rfl

theorem printLine_reset : printLine .reset = .reset := rfl

/-! ### The line assembles to the word -/

theorem assemble_accessLine (acc : Access) (sz : BitVec 2) (a : Offset) :
    assemble (accessLine acc sz a) = some [presentBus acc sz a] := by
  cases acc with
  | rd => simp [accessLine, assemble, sizeBits_suffixOf, regOffset_regAt]
  | wr v => simp [accessLine, assemble, assembleWr, valueOf, v.isLt, sizeBits_suffixOf, regOffset_regAt]

/-- The printed line of every operation assembles to the operation's word (R100). -/
theorem assemble_printLine (i : Instr) : assemble (printLine i) = some [encode i] := by
  rcases encode_cases i with ⟨c, rfl⟩ | rfl | rfl | ⟨acc, sz, a, henc⟩
  · rw [printLine_edge, assemble, if_pos c.isLt, BitVec.ofNat_toNat, BitVec.setWidth_eq]
  · rfl
  · rfl
  · rw [printLine_of_access henc, assemble_accessLine, henc]

/-! ### A raw offset is written only where no register has it -/

theorem globalOffset_block (r : GlobalReg) :
    (globalOffset r).extractLsb' 0 2 = 0#2 ∧ (globalOffset r).extractLsb' 5 7 = 0#7 := by
  cases r <;> decide

theorem relOffset_low (r : ChannelReg) : (relOffset r).extractLsb' 0 2 = 0#2 := by
  cases r <;> rfl

/-- An offset that the printer writes raw is neither a global nor a channel register's. -/
theorem regAt_raw_unnamed {a b : Offset} (h : regAt a = .raw b) :
    (∀ r : GlobalReg, regOffset (.global r) ≠ b) ∧
      ∀ (c : ChanIx) (r : ChannelReg), regOffset (.channel c r) ≠ b := by
  obtain ⟨rfl, hout⟩ := regAt_raw h
  refine ⟨fun r hr => ?_, fun c r hr => ?_⟩
  · obtain ⟨h0, h5⟩ := globalOffset_block r
    subst hr
    rcases hout with hmis | ⟨h5', -⟩
    · exact hmis h0
    · exact h5' h5
  · obtain ⟨h0, -, -, h9, -⟩ := chanOffset_fields c _ (relOffset_low r)
    subst hr
    rcases hout with hmis | ⟨-, h9'⟩
    · exact hmis h0
    · exact h9' h9

theorem accessLine_raw {acc : Access} {sz : BitVec 2} {a b : Offset} {suffix : SizeSuffix} {v : Value}
    (h : accessLine acc sz a = .rd suffix (.raw b) ∨ accessLine acc sz a = .wr suffix (.raw b) v) :
    regAt a = .raw b := by
  cases acc with
  | rd =>
    simp only [accessLine, AsmLine.rd.injEq, reduceCtorEq, or_false] at h
    exact h.2
  | wr w =>
    simp only [accessLine, AsmLine.wr.injEq, reduceCtorEq, false_or] at h
    exact h.2.1

/-- Settles O5: only an access is printed with a REG, and its REG is the printer's for its offset. -/
theorem printedOperationAssemblesBack : Obligations.PrintedOperationAssemblesBack := by
  refine fun i => ⟨assemble_printLine i, fun suffix b v h => ?_⟩
  rcases encode_cases i with ⟨c, rfl⟩ | rfl | rfl | ⟨acc, sz, a, henc⟩
  · simp [printLine_edge] at h
  · simp [printLine_tickUs] at h
  · simp [printLine_reset] at h
  · rw [printLine_of_access henc] at h
    exact regAt_raw_unnamed (accessLine_raw h)

/-! ### The text of a line is read back as the line -/

/-- The text after its mnemonic is read by that mnemonic. -/
theorem assembleLine_word {w args : List Char} (hw : ∀ c ∈ w, wordChar c = true ∧ c ≠ ';') (hne : w ≠ [])
    (hargs : ∀ c ∈ args, c ≠ ';') :
    assembleLine (w ++ ' ' :: args) = (readMnemonic w (tokens [] args)).bind assemble := by
  have hsemi : ∀ c ∈ w ++ ' ' :: args, c ≠ ';' := by
    simp only [List.mem_append, List.mem_cons]
    rintro c (hc | rfl | hc)
    · exact (hw c hc).2
    · decide
    · exact hargs c hc
  rw [assembleLine, stripComment_eq _ hsemi, tokens_word_blank _ _ (fun c hc => (hw c hc).1) hne]

theorem mnemonic_chars {x y : Char} {suffix : List Char} (hx : wordChar x = true ∧ x ≠ ';')
    (hy : wordChar y = true ∧ y ≠ ';') (hs : ∀ c ∈ suffix, wordChar c = true ∧ c ≠ ';') :
    ∀ c ∈ x :: y :: suffix, wordChar c = true ∧ c ≠ ';' :=
  List.forall_mem_cons.mpr ⟨hx, List.forall_mem_cons.mpr ⟨hy, hs⟩⟩

theorem tokens_regText (r : Reg) : tokens [] (regText r).toList = [.word (regText r).toList] :=
  tokens_word _ (fun c hc => (regText_chars r c hc).1) (regText_ne_nil r)

theorem assembleLine_rd (sz : SizeSuffix) (r : Reg) :
    assembleLine (render (.rd sz r)).toList = assemble (.rd sz r) := by
  have htext : (render (.rd sz r)).toList = ('r' :: 'd' :: (suffixText sz).toList) ++ ' ' :: (regText r).toList := by
    simp [render]
  have hw := mnemonic_chars (x := 'r') (y := 'd') (by decide) (by decide) (suffixText_chars sz)
  rw [htext, assembleLine_word hw (List.cons_ne_nil _ _) fun c hc => (regText_chars r c hc).2, readMnemonic_rd,
    tokens_regText, readAccess, readReg_regText]
  rfl

theorem readValue_lit (n fuel : Nat) :
    readValue (fuel + 1) [.word (hexText n).toList] = some (.lit n, []) := by
  simp [readValue, literal_hexText]

theorem assembleLine_wr (sz : SizeSuffix) (r : Reg) (n : Nat) :
    assembleLine (render (.wr sz r (.lit n))).toList = assemble (.wr sz r (.lit n)) := by
  have htext : (render (.wr sz r (.lit n))).toList =
      ('w' :: 'r' :: (suffixText sz).toList) ++ ' ' :: ((regText r).toList ++ ',' :: ' ' :: (hexText n).toList) := by
    simp [render, valueText]
  have hw := mnemonic_chars (x := 'w') (y := 'r') (by decide) (by decide) (suffixText_chars sz)
  have hargs : ∀ c ∈ (regText r).toList ++ ',' :: ' ' :: (hexText n).toList, c ≠ ';' := by
    simp only [List.mem_append, List.mem_cons]
    rintro c (hc | rfl | rfl | hc)
    · exact (regText_chars r c hc).2
    · decide
    · decide
    · exact (hexText_chars n c hc).2
  have htokens : tokens [] ((regText r).toList ++ ',' :: ' ' :: (hexText n).toList) =
      [.word (regText r).toList, .sym ',', .word (hexText n).toList] := by
    rw [tokens_word_comma _ _ (fun c hc => (regText_chars r c hc).1) (regText_ne_nil r), tokens_blank,
      tokens_word _ (fun c hc => (hexText_chars n c hc).1) (by simp [hexText_toList])]
  rw [htext, assembleLine_word hw (List.cons_ne_nil _ _) hargs, readMnemonic_wr, htokens]
  simp [readAccess, readReg_regText, readValue_lit]

theorem assembleLine_accessLine (acc : Access) (sz : BitVec 2) (a : Offset) :
    assembleLine (render (accessLine acc sz a)).toList = assemble (accessLine acc sz a) := by
  cases acc with
  | rd => exact assembleLine_rd _ _
  | wr v => exact assembleLine_wr _ _ _

theorem assembleLine_edge : ∀ c : ChanIx,
    assembleLine (render (.edge c.toNat)).toList = assemble (.edge c.toNat) := by decide

/-- The reader of text undoes the spelling of every line that the printer writes. -/
theorem assembleLine_printLine (i : Instr) :
    assembleLine (render (printLine i)).toList = assemble (printLine i) := by
  rcases encode_cases i with ⟨c, rfl⟩ | rfl | rfl | ⟨acc, sz, a, henc⟩
  · rw [printLine_edge, assembleLine_edge]
  · rfl
  · rfl
  · rw [printLine_of_access henc, assembleLine_accessLine]

/-- Settles O55: the text is read as the printed line, which assembles back. -/
theorem printedTextAssemblesBack : Obligations.PrintedTextAssemblesBack := fun i =>
  (assembleLine_printLine i).trans (assemble_printLine i)

end Sys2Proof.Machine
end

section
/-! The operations still to come and NCH (30_encoding.md R98; 10_state.md R24), settling O7. -/

namespace Sys2Proof.Machine

/-- `t` has the operations still to come and the channel count of `s`. -/
def SamePendingNch (s t : State) : Prop := t.pending = s.pending ∧ t.nch = s.nch

theorem SameButErrPort.samePendingNch {r s t : State} (h : SameButErrPort s t) (hs : SamePendingNch r s) :
    SamePendingNch r t := by
  obtain ⟨_, _, rfl⟩ := h
  exact hs

theorem samePendingNch_updateChan (c : ChanIx) (f : Channel → Channel) (s : State) :
    SamePendingNch s (updateChan c f s) := ⟨rfl, nch_updateChan c f s⟩

theorem samePendingNch_tickUs {s t : State} (h : execTickUs s = .next t) : SamePendingNch s t := by
  by_cases hp : s.presc.toNat = 999
  · cases (execTickUs_ms hp).symm.trans h
    exact ⟨msEvent_pending _, nch_msEvent _⟩
  · cases (execTickUs_quiet hp).symm.trans h
    exact ⟨rfl, rfl⟩

theorem samePendingNch_reset {s t : State} (h : execReset s = .next t) : SamePendingNch s t := by
  cases h
  exact ⟨rfl, List.length_map _⟩

/-- Settles O7: by each operation's effect on the registers; ERR and the port are neither the list nor a channel. -/
theorem noOperationChoosesItsSuccessor : Obligations.NoOperationChoosesItsSuccessor := by
  intro i s t h
  change SamePendingNch s t
  rcases instr_effect_cases i with he | ⟨d, f, he⟩ | ⟨v, rfl⟩ | ⟨v, rfl⟩ | ⟨d, rfl⟩ | rfl | rfl
  · exact (he s t h).samePendingNch ⟨rfl, rfl⟩
  · exact (he s t h).samePendingNch (samePendingNch_updateChan _ _ _)
  · exact (registerEffect_wrCtrl v s t h).samePendingNch ⟨writeCtrl_pending _ _, nch_writeCtrl _ _⟩
  · exact (registerEffect_wrTemp v s t h).samePendingNch ⟨rfl, rfl⟩
  · refine (registerEffect_edge d s t h).samePendingNch ?_
    beta_reduce
    split
    · exact samePendingNch_updateChan _ _ _
    · exact ⟨rfl, rfl⟩
  · exact samePendingNch_tickUs h
  · exact samePendingNch_reset h

end Sys2Proof.Machine
end

section
/-! The pulse counter (40_pulse_counter.md R120 to R129) and the stopped block (R123; 44_bus_global.md R225; 60_exceptions.md
R318), settling O30, O31 and O36. -/

namespace Sys2Proof.Machine

/-! ### The debounce test as a number (R122) -/

theorem dist_toNat (a b : Word) : (dist a b).toNat = (a.toNat + 4294967296 - b.toNat) % 4294967296 := by
  rw [dist, BitVec.toNat_sub]
  omega

theorem edgeAccepted_iff {nu : Word} {ch : Channel} :
    edgeAccepted nu ch = true ↔
      ch.cfg.debounceUs.toNat < (nu.toNat + 4294967296 - ch.pulse.lastEdgeUs.toNat) % 4294967296 := by
  rw [edgeAccepted, decide_eq_true_iff, dist_toNat]

theorem ofNat_succ_toNat (n : Word) : BitVec.ofNat 32 ((n.toNat + 1) % 4294967296) = n + 1#32 :=
  BitVec.eq_of_toNat_eq (by simp)

/-! ### EDGE on a channel that exists (R120, R123) -/

theorem exec_edge {s : State} {c : ChanIx} (hc : c.toNat < s.nch) :
    exec (.edge c) s = .next (if s.en then updateChan c (recordEdge s.nowUs s.nowMs) s else s) :=
  if_pos hc

theorem exec_edge_running {s : State} {c : ChanIx} (hc : c.toNat < s.nch) (he : s.en = true) :
    exec (.edge c) s = .next (updateChan c (recordEdge s.nowUs s.nowMs) s) := by
  rw [exec_edge hc, if_pos he]

theorem exec_edge_stopped {s : State} {c : ChanIx} (hc : c.toNat < s.nch) (he : s.en = false) :
    exec (.edge c) s = .next s := by
  rw [exec_edge hc, if_neg (by simp [he])]

/-- EDGE answers next only on a channel that exists (log 6). -/
theorem lt_of_exec_edge {s t : State} {c : ChanIx} (h : exec (.edge c) s = .next t) : c.toNat < s.nch := by
  by_contra hc
  rw [exec, execEdge, if_neg hc] at h
  cases h

/-- Changing a channel to what it is changes nothing. -/
theorem updateChan_fixed {s : State} {c : ChanIx} {f : Channel → Channel} (hc : c.toNat < s.nch)
    (hf : f (chanAt s c) = chanAt s c) : updateChan c f s = s := by
  rw [updateChan, modify_eq_set f hc, hf, set_chanAt]

/-- Settles O30: the channel is set to its counted form when the block runs and the test holds, and kept otherwise. -/
theorem edgeFollowsTheDebounceTest : Obligations.EdgeFollowsTheDebounceTest := by
  refine ⟨fun n w c hc => by rw [decode_edgeWord, if_pos hc], fun s c ch hget => ?_⟩
  have hc := lt_of_get hget
  obtain rfl := chanAt_eq_of_get hget
  simp only [← edgeAccepted_iff, ofNat_succ_toNat]
  cases he : s.en
  · rw [exec_edge_stopped hc he, if_neg (by simp)]
  · rw [exec_edge_running hc he]
    cases ha : edgeAccepted s.nowUs (chanAt s c)
    · rw [updateChan_fixed hc (recordEdge_rejected ha), if_neg (by simp)]
    · rw [updateChan, modify_eq_set _ hc, recordEdge_accepted ha, if_pos ⟨rfl, rfl⟩, he]

/-! ### The same EDGE again (R129) -/

/-- After an accepted edge the stamp is the present time, so the second is rejected (R121). -/
theorem recordEdge_twice (nu nm : Word) (ch : Channel) :
    recordEdge nu nm (recordEdge nu nm ch) = recordEdge nu nm ch := by
  cases ha : edgeAccepted nu ch
  · simp only [recordEdge_rejected ha]
  · rw [recordEdge_accepted ha]
    exact recordEdge_rejected (edgeAccepted_self _)

/-- Settles O31: EDGE leaves EN, the timebase and NCH, so the second one applies the same idempotent change. -/
theorem secondEdgeInAMicrosecondIsRejected : Obligations.SecondEdgeInAMicrosecondIsRejected := by
  intro c s t h
  have hc := lt_of_exec_edge h
  cases he : s.en
  · cases (exec_edge_stopped hc he).symm.trans h
    exact h
  · cases (exec_edge_running hc he).symm.trans h
    rw [exec_edge_running (by simpa using hc) (by simpa using he), updateChan_nowUs, updateChan_nowMs,
      updateChan_twice c (recordEdge_twice _ _)]

/-! ### The stopped block -/

theorem msEvent_stopped {s : State} (he : s.en = false) : msEvent s = s := if_neg (by simp [he])

/-- Settles O36: the millisecond event of a stopped block is empty, which leaves TICK_US the counters. -/
theorem stoppedBlockOnlyCountsTime : Obligations.StoppedBlockOnlyCountsTime := by
  refine fun s he => ⟨fun c hc => exec_edge_stopped hc he, ?_, pwmDuty_stopped he⟩
  by_cases hp : s.presc.toNat = 999
  · refine ⟨_, execTickUs_ms hp, ?_⟩
    rw [msEvent_stopped (by exact he)]
  · exact ⟨_, execTickUs_quiet hp, rfl⟩

end Sys2Proof.Machine
end

section
/-! Who writes each part of the state (10_state.md R63; 40_pulse_counter.md R127; 41_tach_estimator.md R145;
42_fan_controller.md R171; 60_exceptions.md R316), settling O51: the state is grouped by its writer, and one lemma for each
agent says which groups its operations keep. -/

namespace Sys2Proof.Machine

/-! ### The agent of an operation (R90, R91) -/

@[simp] theorem agentOf_edge : ∀ d : ChanIx, agentOf (.edge d) = .edge d := by decide

@[simp] theorem agentOf_tickUs : agentOf .tickUs = .timebase := by decide

@[simp] theorem agentOf_reset : agentOf .reset = .reset := by decide

theorem agentOf_presentBus {i : Instr} {acc : Access} {sz : BitVec 2} {a : Offset} (h : encode i = presentBus acc sz a) :
    agentOf i = .host := by
  cases acc <;> exact agentOf_host (by simp [h])

/-- A WR CTRL is a start exactly when it raises EN (R226). -/
theorem restarts_wrCtrl (v : Word) (s : State) : restarts (.wrCtrl v) s = (!s.en && v.getLsbD 0) := rfl

/-! ### The parts of the state, by who writes them -/

/-- `t` has what only TICK_US writes as `s` has it: the estimate and controller state of channel `c`, and the timebase. -/
structure SameTickParts (c : ChanIx) (s t : State) : Prop where
  est : (chanAt t c).est = (chanAt s c).est
  ctl : (chanAt t c).ctl = (chanAt s c).ctl
  nowUs : t.nowUs = s.nowUs
  nowMs : t.nowMs = s.nowMs
  presc : t.presc = s.presc

/-- `t` has what no access but a start writes as `s` has it: beside the parts of TICK_US, the accumulator of channel `c`. -/
structure SameRuntime (c : ChanIx) (s t : State) : Prop extends SameTickParts c s t where
  pulse : (chanAt t c).pulse = (chanAt s c).pulse

/-- `t` has what only a write of the host changes as `s` has it: the configuration of channel `c`, TEMP and EN. -/
structure SameConfig (c : ChanIx) (s t : State) : Prop where
  cfg : (chanAt t c).cfg = (chanAt s c).cfg
  temp : t.temp = s.temp
  en : t.en = s.en

/-- `t` has what only an access writes as `s` has it: ERR and the port. -/
structure SameBus (s t : State) : Prop where
  err : t.err = s.err
  port : t.port = s.port

section
variable {c : ChanIx} {r s t : State}

theorem SameTickParts.not_changed (h : SameTickParts c s t) :
    ¬ ((chanAt t c).est ≠ (chanAt s c).est ∨ (chanAt t c).ctl ≠ (chanAt s c).ctl ∨ t.nowUs ≠ s.nowUs ∨
      t.nowMs ≠ s.nowMs ∨ t.presc ≠ s.presc) := by
  simp [h.est, h.ctl, h.nowUs, h.nowMs, h.presc]

theorem SameConfig.not_changed (h : SameConfig c s t) :
    ¬ ((chanAt t c).cfg ≠ (chanAt s c).cfg ∨ t.temp ≠ s.temp ∨ t.en ≠ s.en) := by
  simp [h.cfg, h.temp, h.en]

theorem SameBus.not_changed (h : SameBus s t) : ¬ (t.err ≠ s.err ∨ t.port ≠ s.port) := by
  simp [h.err, h.port]

theorem SameRuntime.sameButErrPort (h : SameRuntime c r s) (hst : SameButErrPort s t) : SameRuntime c r t := by
  obtain ⟨_, _, rfl⟩ := hst
  exact ⟨⟨h.est, h.ctl, h.nowUs, h.nowMs, h.presc⟩, h.pulse⟩

theorem SameButErrPort.sameRuntime (h : SameButErrPort s t) : SameRuntime c s t :=
  SameRuntime.sameButErrPort ⟨⟨rfl, rfl, rfl, rfl, rfl⟩, rfl⟩ h

theorem SameButErrPort.sameConfig (h : SameButErrPort s t) : SameConfig c s t := by
  obtain ⟨_, _, rfl⟩ := h
  exact ⟨rfl, rfl, rfl⟩

/-- A part of a channel that `f` keeps in every channel is kept when `f` changes one of them. -/
theorem updateChan_keeps {α : Type} (part : Channel → α) (d : ChanIx) {f : Channel → Channel}
    (hf : ∀ ch, part (f ch) = part ch) : part (chanAt (updateChan d f s) c) = part (chanAt s c) := by
  rw [chanAt_updateChan_ite]
  split
  · exact hf _
  · rfl

/-! ### The host (R63) -/

theorem sameRuntime_updateConfig (d : ChanIx) (f : ChanConfig → ChanConfig) :
    SameRuntime c s (updateChan d (fun ch => { ch with cfg := f ch.cfg }) s) where
  est := updateChan_keeps Channel.est d fun _ => rfl
  ctl := updateChan_keeps Channel.ctl d fun _ => rfl
  pulse := updateChan_keeps Channel.pulse d fun _ => rfl
  nowUs := rfl
  nowMs := rfl
  presc := rfl

/-- A write to CTRL that is no start changes EN alone (R224). -/
theorem sameRuntime_writeCtrl {v : Word} (h : restarts (.wrCtrl v) s = false) : SameRuntime c s (writeCtrl v s) := by
  have hstart : ¬ (s.en = false ∧ v.getLsbD 0 = true) := by simpa [restarts_wrCtrl] using h
  rw [writeCtrl_eq, if_neg hstart]
  exact ⟨⟨rfl, rfl, rfl, rfl, rfl⟩, rfl⟩

theorem sameRuntime_of_host {i : Instr} (hi : agentOf i = .host) (hr : restarts i s = false) (h : exec i s = .next t) :
    SameRuntime c s t := by
  rcases instr_effect_cases i with he | ⟨d, f, he⟩ | ⟨v, rfl⟩ | ⟨v, rfl⟩ | ⟨d, rfl⟩ | rfl | rfl
  · exact (he s t h).sameRuntime
  · exact (sameRuntime_updateConfig d f).sameButErrPort (he s t h)
  · exact (sameRuntime_writeCtrl hr).sameButErrPort (registerEffect_wrCtrl v s t h)
  · have hrun : SameRuntime c s { s with temp := tempOfWord v } := ⟨⟨rfl, rfl, rfl, rfl, rfl⟩, rfl⟩
    exact hrun.sameButErrPort (registerEffect_wrTemp v s t h)
  · simp at hi
  · simp at hi
  · simp at hi

/-- A read keeps what only writes change (R75). -/
theorem sameConfig_of_read {i : Instr} (hi : opKind (encode i).word = 0#2) (h : exec i s = .next t) :
    SameConfig c s t := by
  rcases readsHaveNoSideEffect i s t hi h with ⟨_, rfl, -⟩ | ht
  · exact ⟨rfl, rfl, rfl⟩
  · exact SameButErrPort.sameConfig ⟨_, _, ht⟩

/-! ### The tach inputs (R127) -/

theorem exec_edge_next {d : ChanIx} (h : exec (.edge d) s = .next t) :
    t = s ∨ t = updateChan d (recordEdge s.nowUs s.nowMs) s := by
  cases (exec_edge (lt_of_exec_edge h)).symm.trans h
  split
  · exact .inr rfl
  · exact .inl rfl

/-- An edge changes nothing but the accumulator of its own channel. -/
theorem edge_frame {d : ChanIx} (h : exec (.edge d) s = .next t) :
    (c ≠ d → (chanAt t c).pulse = (chanAt s c).pulse) ∧ SameTickParts c s t ∧ SameConfig c s t ∧ SameBus s t := by
  rcases exec_edge_next h with rfl | rfl
  · exact ⟨fun _ => rfl, ⟨rfl, rfl, rfl, rfl, rfl⟩, ⟨rfl, rfl, rfl⟩, ⟨rfl, rfl⟩⟩
  · have hest := updateChan_keeps (s := s) (c := c) Channel.est d (recordEdge_est s.nowUs s.nowMs)
    have hctl := updateChan_keeps (s := s) (c := c) Channel.ctl d (recordEdge_ctl s.nowUs s.nowMs)
    have hcfg := updateChan_keeps (s := s) (c := c) Channel.cfg d (recordEdge_cfg s.nowUs s.nowMs)
    exact ⟨fun hne => by rw [chanAt_updateChan_other hne], ⟨hest, hctl, rfl, rfl, rfl⟩, ⟨hcfg, rfl, rfl⟩, ⟨rfl, rfl⟩⟩

/-! ### The microsecond strobe (R145, R171) -/

/-- TICK_US changes nothing but the estimates, the controller states and the timebase. -/
theorem tickUs_frame (h : execTickUs s = .next t) :
    (chanAt t c).pulse = (chanAt s c).pulse ∧ SameConfig c s t ∧ SameBus s t := by
  have hpulse : (chanAt t c).pulse = (chanAt s c).pulse := by
    rw [chanAt_tickUs h]
    split <;> simp
  have hcfg : (chanAt t c).cfg = (chanAt s c).cfg := by
    rw [chanAt_tickUs h]
    split <;> simp
  by_cases hp : s.presc.toNat = 999
  · cases (execTickUs_ms hp).symm.trans h
    exact ⟨hpulse, ⟨hcfg, msEvent_temp _, msEvent_en _⟩, ⟨msEvent_err _, msEvent_port _⟩⟩
  · cases (execTickUs_quiet hp).symm.trans h
    exact ⟨hpulse, ⟨hcfg, rfl, rfl⟩, ⟨rfl, rfl⟩⟩

end

/-- Settles O51: each agent keeps the groups of the others, and of the host's accesses a read keeps the configuration. -/
theorem onlyTheOwnerWritesEachPart : Obligations.OnlyTheOwnerWritesEachPart := by
  intro i s t c h hr _
  rcases encode_cases i with ⟨d, rfl⟩ | rfl | rfl | ⟨acc, sz, a, henc⟩
  · obtain ⟨hpulse, htick, hconfig, hbus⟩ := edge_frame (c := c) h
    refine ⟨fun hne => ?_, fun hne => absurd hne htick.not_changed, fun hne => absurd hne hconfig.not_changed,
      fun hne => absurd hne hbus.not_changed⟩
    by_cases hcd : c = d
    · rw [hcd, agentOf_edge]
    · exact absurd (hpulse hcd) hne
  · obtain ⟨hpulse, hconfig, hbus⟩ := tickUs_frame (c := c) h
    exact ⟨fun hne => absurd hpulse hne, fun _ => agentOf_tickUs, fun hne => absurd hne hconfig.not_changed,
      fun hne => absurd hne hbus.not_changed⟩
  · exact absurd hr (by simp [restarts])
  · have hhost := agentOf_presentBus henc
    have hrun : SameRuntime c s t := sameRuntime_of_host hhost hr h
    refine ⟨fun hne => absurd hrun.pulse hne, fun hne => absurd hne hrun.not_changed, fun hne => ⟨hhost, ?_⟩,
      fun _ => hhost⟩
    cases acc with
    | rd => exact absurd hne (sameConfig_of_read (by simp [henc]) h).not_changed
    | wr v => simp [henc]

end Sys2Proof.Machine
end

section
/-! The windowed RPM estimator (41_tach_estimator.md R140 to R146), settling O37 to O41. What each operation can do to a
channel's estimate and to its accumulator is said once; the value of RPM is a matter of `windowRpm` and `rpmOf`, and the tally
of a run is kept by induction over its operations. -/

namespace Sys2Proof.Machine

section
variable {i : Instr} {c : ChanIx} {s s₀ t : State} {n : Tally}

/-! ### The estimate and the accumulator after an operation (R127, R145) -/

/-- `tickUs_est` for a given TICK_US. -/
theorem est_of_window (hw : windowEnds s c) (h : exec .tickUs s = .next t) :
    (chanAt t c).est =
      { base := (chanAt s c).pulse.count,
        rpm := windowRpm (s.nowMs + 1#32) ((chanAt s c).pulse.count - (chanAt s c).est.base) (chanAt s c),
        delta := (chanAt s c).pulse.count - (chanAt s c).est.base, winEnd := s.nowMs + 1#32 } := by
  obtain ⟨_, ht, hest⟩ := tickUs_est hw
  cases ht.symm.trans h
  exact hest

theorem tickUs_est_of_no_window (hw : ¬ windowEnds s c) (h : exec .tickUs s = .next t) :
    (chanAt t c).est = (chanAt s c).est := by
  rw [chanAt_tickUs h]
  split
  · next hms =>
    obtain ⟨hp, he, hc⟩ := hms
    have hdue : ¬ windowDue (s.nowMs + 1#32) (chanAt s c) = true := fun hd => hw ⟨hc, ⟨he, hp⟩, of_decide_eq_true hd⟩
    rw [channelMs_est, if_neg hdue]
  · rfl

/-- Beside RESET and a start, an operation other than TICK_US keeps what only TICK_US writes. -/
theorem sameTickParts_of_ne_tickUs (hi : i ≠ .tickUs) (hr : restarts i s = false) (h : exec i s = .next t) :
    SameTickParts c s t := by
  rcases encode_cases i with ⟨d, rfl⟩ | rfl | rfl | ⟨acc, sz, a, henc⟩
  · obtain ⟨-, htick, -, -⟩ := edge_frame (c := c) h
    exact htick
  · exact absurd rfl hi
  · exact absurd hr (by simp [restarts])
  · exact (sameRuntime_of_host (agentOf_presentBus henc) hr h).toSameTickParts

/-- Beside RESET and a start, the estimate is written by a window alone. -/
theorem est_of_no_window (hw : ¬ (i = .tickUs ∧ windowEnds s c)) (hr : restarts i s = false)
    (h : exec i s = .next t) : (chanAt t c).est = (chanAt s c).est := by
  by_cases hi : i = .tickUs
  · subst hi
    exact tickUs_est_of_no_window (fun h => hw ⟨rfl, h⟩) h
  · exact (sameTickParts_of_ne_tickUs hi hr h).est

theorem pulse_of_counted_edge (he : edgeCounts s c) (h : exec (.edge c) s = .next t) :
    (chanAt t c).pulse = ⟨(chanAt s c).pulse.count + 1#32, s.nowUs, s.nowMs⟩ := by
  obtain ⟨hc, hen, hdist⟩ := he
  cases (exec_edge_running hc hen).symm.trans h
  rw [chanAt_updateChan_same hc, recordEdge_accepted (decide_eq_true hdist)]

theorem edge_pulse_of_not_counted (he : ¬ edgeCounts s c) (h : exec (.edge c) s = .next t) :
    (chanAt t c).pulse = (chanAt s c).pulse := by
  have hc := lt_of_exec_edge h
  cases hen : s.en
  · cases (exec_edge_stopped hc hen).symm.trans h
    rfl
  · cases (exec_edge_running hc hen).symm.trans h
    have hrej : edgeAccepted s.nowUs (chanAt s c) = false := decide_eq_false fun hd => he ⟨hc, hen, hd⟩
    rw [chanAt_updateChan_same hc, recordEdge_rejected hrej]

/-- Beside RESET and a start, the accumulator is written by an accepted edge of its own input alone. -/
theorem pulse_of_no_counted_edge (he : ¬ (i = .edge c ∧ edgeCounts s c)) (hr : restarts i s = false)
    (h : exec i s = .next t) : (chanAt t c).pulse = (chanAt s c).pulse := by
  rcases encode_cases i with ⟨d, rfl⟩ | rfl | rfl | ⟨acc, sz, a, henc⟩
  · by_cases hcd : c = d
    · subst hcd
      exact edge_pulse_of_not_counted (fun h => he ⟨rfl, h⟩) h
    · obtain ⟨hpulse, -, -, -⟩ := edge_frame (c := c) h
      exact hpulse hcd
  · obtain ⟨hpulse, -, -⟩ := tickUs_frame (c := c) h
    exact hpulse
  · exact absurd hr (by simp [restarts])
  · exact (sameRuntime_of_host (agentOf_presentBus henc) hr h).pulse

/-! ### The RPM of a window (R142 to R144) -/

/-- rpm_of rounds to the nearest integer, halves up, and saturates (R142). -/
theorem rpmOf_nearest {d w p : Nat} (hwp : 0 < w * p) :
    ∃ q, rpmOf d w p = min q 2147483647 ∧ 2 * q * (w * p) ≤ 2 * d * 60000 + w * p ∧
      2 * d * 60000 < (2 * q + 1) * (w * p) := by
  have hlow := Nat.div_mul_le_self (2 * d * 60000 + w * p) (2 * w * p)
  have hhigh := Nat.lt_mul_div_succ (2 * d * 60000 + w * p) (show 0 < 2 * w * p by rw [Nat.mul_assoc]; omega)
  refine ⟨(2 * d * 60000 + w * p) / (2 * w * p), rfl, ?_⟩
  generalize (2 * d * 60000 + w * p) / (2 * w * p) = q at *
  constructor <;> linarith

theorem windowRpm_toNat_of_ne {now delta : Word} {ch : Channel} (h : delta ≠ 0#32) :
    (windowRpm now delta ch).toNat = rpmOf delta.toNat ch.cfg.windowMs.toNat ch.cfg.ppr.toNat := by
  have := rpmOf_le delta.toNat ch.cfg.windowMs.toNat ch.cfg.ppr.toNat
  rw [windowRpm, if_pos h, BitVec.toNat_ofNat, Nat.mod_eq_of_lt (by omega)]

theorem windowRpm_zero (now : Word) (ch : Channel) :
    windowRpm now 0#32 ch =
      if ch.cfg.timeoutMs.toNat < (now - ch.pulse.lastPulseMs).toNat then 0#32 else ch.est.rpm := by
  rw [windowRpm, if_neg (not_not_intro rfl)]
  exact if_congr decide_eq_true_iff rfl rfl

/-- A window leaves the unknown RPM only by keeping it: a converted RPM is below 2^31, and a timeout's is 0 (R144). -/
theorem rpm_unknown_of_windowRpm {now delta : Word} {ch : Channel} (h : windowRpm now delta ch = 0xFFFFFFFF#32) :
    ch.est.rpm = 0xFFFFFFFF#32 := by
  by_cases hd : delta = 0#32
  · rw [hd, windowRpm_zero] at h
    split at h
    · cases h
    · exact h
  · have hle := rpmOf_le delta.toNat ch.cfg.windowMs.toNat ch.cfg.ppr.toNat
    rw [← windowRpm_toNat_of_ne hd, h] at hle
    exact absurd hle (by decide)

/-! ### The tally of a run (R146) -/

/-- From `s₀` to `s` the count and the baseline of channel `c` have grown by the tally's edges and deltas, and they are
apart by its edges since the last window. -/
structure Tally.Accounts (n : Tally) (c : ChanIx) (s₀ s : State) : Prop where
  count : (chanAt s c).pulse.count = (chanAt s₀ c).pulse.count + n.accepted
  base : (chanAt s c).est.base = (chanAt s₀ c).est.base + n.deltas
  sinceWindow : (chanAt s c).pulse.count - (chanAt s c).est.base = n.sinceWindow

theorem Tally.accounts_start (c : ChanIx) (s : State) :
    Tally.Accounts ⟨0#32, 0#32, (chanAt s c).pulse.count - (chanAt s c).est.base⟩ c s s :=
  ⟨(BitVec.add_zero _).symm, (BitVec.add_zero _).symm, rfl⟩

/-- An accepted edge adds 1 to the count and stays ahead of the baseline. -/
theorem Tally.Accounts.counted_edge (hn : n.Accounts c s₀ s) (he : edgeCounts s c) (h : exec (.edge c) s = .next t) :
    Tally.Accounts { n with accepted := n.accepted + 1#32, sinceWindow := n.sinceWindow + 1#32 } c s₀ t := by
  have hpulse := pulse_of_counted_edge he h
  obtain ⟨-, htick, -, -⟩ := edge_frame (c := c) h
  have hest := htick.est
  constructor
  · rw [hpulse, hn.count, BitVec.add_assoc]
  · rw [hest, hn.base]
  · rw [hpulse, hest, ← hn.sinceWindow]
    exact add_sub_right_comm _ _ _

/-- A window moves the baseline to the count, which is by the delta it takes. -/
theorem Tally.Accounts.window (hn : n.Accounts c s₀ s) (hw : windowEnds s c) (h : exec .tickUs s = .next t) :
    Tally.Accounts { n with deltas := n.deltas + (chanAt t c).est.delta, sinceWindow := 0#32 } c s₀ t := by
  have hest := est_of_window hw h
  obtain ⟨hpulse, -, -⟩ := tickUs_frame (c := c) h
  constructor
  · rw [hpulse, hn.count]
  · rw [hest, ← BitVec.add_assoc, ← hn.base]
    exact (add_sub_cancel _ _).symm
  · rw [hest, hpulse]
    exact BitVec.sub_self _

theorem Tally.Accounts.after (hn : n.Accounts c s₀ s) (hr : restarts i s = false) (h : exec i s = .next t) :
    (n.after c i s t).Accounts c s₀ t := by
  unfold Tally.after
  split
  · next he =>
    obtain ⟨rfl, he⟩ := he
    exact hn.counted_edge he h
  next he =>
  split
  · next hw =>
    obtain ⟨rfl, hw⟩ := hw
    exact hn.window hw h
  · next hw =>
    have hpulse := pulse_of_no_counted_edge he hr h
    have hest := est_of_no_window hw hr h
    exact ⟨by rw [hpulse, hn.count], by rw [hest, hn.base], by rw [hpulse, hest, hn.sinceWindow]⟩

/-- The tally accounts for a run that re-initialises nothing, by induction over its operations. -/
theorem accounts_tallyOf {ops : List Instr} (hn : n.Accounts c s₀ s) (hk : runKeeps ops s = true)
    (h : runOps ops s = some t) : (tallyOf c ops s n).Accounts c s₀ t := by
  induction ops generalizing s n with
  | nil =>
    cases h
    exact hn
  | cons i is ih =>
    rw [runOps] at h
    rw [runKeeps] at hk
    rw [tallyOf]
    split at h
    · next u hu =>
      simp only [hu, Bool.and_eq_true, Bool.not_eq_true'] at hk ⊢
      obtain ⟨hr, hk⟩ := hk
      exact ih (hn.after hr hu) hk h
    · cases h
    · cases h

end

/-! ### The obligations -/

/-- Settles O37: by what a window leaves in the estimate, and what keeps it. -/
theorem windowTakesTheDelta : Obligations.WindowTakesTheDelta := by
  intro s c hc
  obtain ⟨t, ht, -, -⟩ := tickUs_channel s c hc
  obtain ⟨hpulse, hconfig, -⟩ := tickUs_frame (c := c) ht
  refine ⟨t, ht, hpulse, hconfig.cfg, fun hw => ?_, fun hw => tickUs_est_of_no_window hw ht,
    fun i r hi hr hir => (sameTickParts_of_ne_tickUs hi hr hir).est⟩
  rw [est_of_window hw ht]
  exact ⟨dist_toNat _ _, rfl, rfl⟩

/-- Settles O38: the delta is `d` modulo 2^32, and a legal configuration keeps W*P above 0. -/
theorem windowRpmIsTheNearestInteger : Obligations.WindowRpmIsTheNearestInteger := by
  rintro s c d w p hw ⟨hwin, hppr, -⟩ rfl hd rfl rfl
  obtain ⟨t, ht, hest⟩ := tickUs_est hw
  have hdelta := dist_toNat (chanAt s c).pulse.count (chanAt s c).est.base
  have hne : dist (chanAt s c).pulse.count (chanAt s c).est.base ≠ 0#32 := fun h0 => hd (by rw [← hdelta, h0]; rfl)
  have hpos : 0 < (chanAt s c).cfg.windowMs.toNat * (chanAt s c).cfg.ppr.toNat :=
    Nat.mul_pos (BitVec.toNat_pos_of_ne_zero hwin) (BitVec.toNat_pos_of_ne_zero hppr)
  obtain ⟨q, hq, hlow, hhigh⟩ := rpmOf_nearest hpos
  refine ⟨t, q, ht, ?_, hlow, hhigh⟩
  rw [hest, ← hq, ← hdelta]
  exact windowRpm_toNat_of_ne hne

/-- Settles O39: with COUNT at BASE the delta of the window is 0. -/
theorem zeroDeltaWindowRetainsOrStops : Obligations.ZeroDeltaWindowRetainsOrStops := by
  intro s c hw hcount
  obtain ⟨t, ht, hest⟩ := tickUs_est hw
  refine ⟨t, ht, ?_⟩
  rw [hest, hcount, BitVec.sub_self]
  exact windowRpm_zero _ _

/-- Settles O40: an operation that ends no window keeps RPM, and a window never makes it unknown. -/
theorem noWindowMakesRpmUnknown : Obligations.NoWindowMakesRpmUnknown := by
  intro i s t c h hr _ hrpm
  by_cases hw : i = .tickUs ∧ windowEnds s c
  · obtain ⟨rfl, hw⟩ := hw
    rw [est_of_window hw h] at hrpm
    exact rpm_unknown_of_windowRpm hrpm
  · rwa [est_of_no_window hw hr h] at hrpm

/-- Settles O41: the tally accounts for the run from its start. -/
theorem everyAcceptedEdgeIsInOneDelta : Obligations.EveryAcceptedEdgeIsInOneDelta := by
  rintro c ops s t _ - hk hrun rfl
  obtain ⟨hcount, hbase, hsince⟩ := accounts_tallyOf (Tally.accounts_start c s) hk hrun
  exact ⟨hcount, hbase, hsince⟩

end Sys2Proof.Machine
end

section
/-! The fan duty controller (42_fan_controller.md R160 to R170), settling O43 to O49. A controller tick is the composition of
four sub-steps, so each field that a tick leaves is first traced to the sub-step that writes it; what a sub-step does is then
said once, for any controller state. -/

namespace Sys2Proof.Machine

section
variable {k : ChanConfig} {temp : Temp} {now dt : Word} {u : CtlState}

/-! ### The sub-step that writes each field of a tick (R160, R169) -/

@[simp] theorem ctrlStep_raw : (ctrlStep k temp now dt u).raw = (tempStep k temp now u).raw := by simp [ctrlStep]

@[simp] theorem ctrlStep_inv : (ctrlStep k temp now dt u).inv = (tempStep k temp now u).inv := by simp [ctrlStep]

@[simp] theorem ctrlStep_failsafe : (ctrlStep k temp now dt u).failsafe = (tempStep k temp now u).failsafe := by
  simp [ctrlStep]

@[simp] theorem ctrlStep_invSince : (ctrlStep k temp now dt u).invSince = (tempStep k temp now u).invSince := by
  simp [ctrlStep]

@[simp] theorem ctrlStep_filt :
    (ctrlStep k temp now dt u).filt = (filterStep k dt (tempStep k temp now u)).filt := by
  simp [ctrlStep]

/-! ### TempStep: the curve's duty in RAW (R161) -/

/-- The curve's value fits RAW, whatever the curve points are, and RAW reads it back. -/
theorem ofInt_curve_cases {d : BitVec 16} {x : Int} (hd : d = BitVec.ofInt 16 (curve k x)) :
    if x ≤ k.curve0.x.toInt then d = k.curve0.y
    else if k.curve4.x.toInt ≤ x then d = k.curve4.y
    else if x < k.curve1.x.toInt then onSegment k.curve0 k.curve1 x d.toNat
    else if x < k.curve2.x.toInt then onSegment k.curve1 k.curve2 x d.toNat
    else if x < k.curve3.x.toInt then onSegment k.curve2 k.curve3 x d.toNat
    else onSegment k.curve3 k.curve4 x d.toNat := by
  obtain ⟨v, hv, hcases⟩ := curve_cases k x
  obtain ⟨w, hw, hle⟩ := curve_le (k := k) (m := 65535) x (by omega) (by omega) (by omega) (by omega) (by omega)
  have hdv : d.toNat = v := by rw [hd, hv, ofInt_toNat_of_lt (by omega)]
  subst hdv
  simpa only [BitVec.toNat_inj] using hcases

/-! ### FilterStep (R163, R164) -/

/-- A step of FILT toward RAW: its size, and that it stops at RAW and at the rate limit. -/
theorem filterStep_moves (dt : Word) (ha : k.alpha.toNat ≤ 65536) :
    (if u.filt.toNat ≤ u.raw.toNat then
      (filterStep k dt u).filt.toNat = u.filt.toNat +
        (min (u.raw.toNat - u.filt.toNat) (maxStep k dt) * k.alpha.toNat + 65535) / 65536 ∧
      (filterStep k dt u).filt.toNat ≤ u.raw.toNat
    else
      (filterStep k dt u).filt.toNat +
        (min (u.filt.toNat - u.raw.toNat) (maxStep k dt) * k.alpha.toNat + 65535) / 65536 = u.filt.toNat ∧
      u.raw.toNat ≤ (filterStep k dt u).filt.toNat) ∧
    ((filterStep k dt u).filt.toNat : Int) - u.filt.toNat ≤ maxStep k dt ∧
    (u.filt.toNat : Int) - (filterStep k dt u).filt.toNat ≤ maxStep k dt := by
  split
  · next h =>
    have hstep := filterStep_up dt ha h
    have hle := ema_le (min (u.raw.toNat - u.filt.toNat) (maxStep k dt)) ha
    omega
  · next h =>
    have hstep := filterStep_down dt ha (Nat.le_of_not_le h)
    have hle := ema_le (min (u.filt.toNat - u.raw.toNat) (maxStep k dt)) ha
    omega

/-- The distance from FILT to RAW. -/
def CtlState.gap (u : CtlState) : Nat := ((u.raw.toNat : Int) - u.filt.toNat).natAbs

theorem CtlState.gap_eq_zero_iff : u.gap = 0 ↔ u.filt = u.raw := by
  rw [← BitVec.toNat_inj, CtlState.gap]
  omega

/-- The rounding up leaves no distance unmoved (R164). -/
theorem filterStep_gap_le (h1 : 1 ≤ k.alpha.toNat) (ha : k.alpha.toNat ≤ 65536) (hdt : 1000 ≤ k.rate.toNat * dt.toNat) :
    (filterStep k dt u).gap ≤ u.gap - 1 := by
  have hlim : 1 ≤ maxStep k dt := (Nat.one_le_div_iff (by decide)).mpr hdt
  obtain ⟨hmove, -, -⟩ := filterStep_moves (u := u) dt ha
  unfold CtlState.gap
  rw [filterStep_raw]
  split at hmove
  · rcases Nat.eq_zero_or_pos (u.raw.toNat - u.filt.toNat) with h0 | hpos
    · omega
    · have := ema_pos (d := min (u.raw.toNat - u.filt.toNat) (maxStep k dt)) h1 (by omega)
      omega
  · have := ema_pos (d := min (u.filt.toNat - u.raw.toNat) (maxStep k dt)) h1 (by omega)
    omega

/-- Each tick of a run takes at least one unit off the distance, by induction over the ticks. -/
theorem foldl_filterStep_gap_le {dts : List Word} (h1 : 1 ≤ k.alpha.toNat) (ha : k.alpha.toNat ≤ 65536)
    (hdts : ∀ dt ∈ dts, 1000 ≤ k.rate.toNat * dt.toNat) :
    (dts.foldl (fun v dt => filterStep k dt v) u).raw = u.raw ∧
      (dts.foldl (fun v dt => filterStep k dt v) u).gap ≤ u.gap - dts.length := by
  induction dts generalizing u with
  | nil => exact ⟨rfl, Nat.le_refl _⟩
  | cons dt dts ih =>
    have hstep := filterStep_gap_le (u := u) h1 ha (hdts dt List.mem_cons_self)
    obtain ⟨hraw, hgap⟩ := ih (u := filterStep k dt u) fun d hd => hdts d (List.mem_cons_of_mem _ hd)
    refine ⟨hraw, ?_⟩
    rw [List.foldl_cons, List.length_cons]
    omega

/-! ### LatchStep (R165, R166) -/

theorem latchStep_of_off (h : u.latch = .off) :
    if u.failsafe = true ∨ (k.minOffMs.toNat ≤ (now - u.tTrans).toNat ∧ k.onAbove.toNat ≤ u.raw.toNat) then
      (latchStep k now u).latch = .on ∧ (latchStep k now u).tTrans = now ∧
        (latchStep k now u).kickEnd = now + BitVec.ofNat 32 k.kickMs.toNat
    else
      (latchStep k now u).latch = .off ∧ (latchStep k now u).tTrans = u.tTrans ∧
        (latchStep k now u).kickEnd = u.kickEnd := by
  rw [← kickMs_setWidth]
  rcases latchStep_cases k now u with ⟨-, hturn, he⟩ | ⟨hon, -, -⟩ | ⟨he, hstay, -⟩
  · rw [if_pos ((turnsOn_iff k now u).mp hturn), he]
    exact ⟨rfl, rfl, rfl⟩
  · cases h.symm.trans hon
  · rw [if_neg (fun hc => Bool.false_ne_true ((hstay h).symm.trans ((turnsOn_iff k now u).mpr hc))), he]
    exact ⟨h, rfl, rfl⟩

theorem latchStep_of_on (h : u.latch = .on) :
    (latchStep k now u).kickEnd = u.kickEnd ∧
      if u.failsafe = false ∧ k.minOnMs.toNat ≤ (now - u.tTrans).toNat ∧ u.raw.toNat < k.offBelow.toNat then
        (latchStep k now u).latch = .off ∧ (latchStep k now u).tTrans = now ∧ (latchStep k now u).kick = false
      else (latchStep k now u).latch = .on ∧ (latchStep k now u).tTrans = u.tTrans := by
  rcases latchStep_cases k now u with ⟨hoff, -, -⟩ | ⟨-, hturn, he⟩ | ⟨he, -, hstay⟩
  · cases h.symm.trans hoff
  · rw [if_pos ((turnsOff_iff k now u).mp hturn), he]
    exact ⟨rfl, rfl, rfl, rfl⟩
  · rw [if_neg (fun hc => Bool.false_ne_true ((hstay h).symm.trans ((turnsOff_iff k now u).mpr hc))), he]
    exact ⟨rfl, h, rfl⟩

/-- A channel that LatchStep leaves ON has a kick armed before or by that step (R166). -/
theorem latchStep_kick_of_on (h : (latchStep k now u).latch = .on) :
    (latchStep k now u).kick = true ↔ u.latch = .off ∨ u.kick = true := by
  rcases latchStep_cases k now u with ⟨hoff, -, he⟩ | ⟨-, -, he⟩ | ⟨he, -, -⟩
  · simp [he, hoff]
  · rw [he] at h
    cases h
  · rw [he] at h ⊢
    simp [h]

/-! ### OutputStep (R167, R168) -/

theorem outputStep_kick_of_off (h : u.latch = .off) : (outputStep k now u).kick = u.kick := by
  rw [outputStep_off h]
  rfl

theorem outputStep_outq_of_off (h : u.latch = .off) : (outputStep k now u).outq = 0#16 := by
  rw [outputStep_off h]
  rfl

/-- The output of a channel that LatchStep leaves ON, by the latch and the kick before that step. -/
theorem outputStep_latchStep_on (h : (latchStep k now u).latch = .on) :
    if (u.latch = .off ∨ u.kick = true) ∧ 0 < ((latchStep k now u).kickEnd - now).toInt then
      (outputStep k now (latchStep k now u)).kick = true ∧
        (outputStep k now (latchStep k now u)).outq.toNat = min k.kickDuty.toNat 25600
    else
      (outputStep k now (latchStep k now u)).kick = false ∧
        (outputStep k now (latchStep k now u)).outq.toNat = min (max u.filt.toNat k.offBelow.toNat) 25600 := by
  have hiff := (kickInForce_iff now (latchStep k now u)).trans (and_congr_left' (latchStep_kick_of_on h))
  rcases outputStep_on (k := k) (now := now) h with ⟨hforce, hout⟩ | ⟨hforce, hout⟩
  · rwa [if_pos (hiff.mp hforce)]
  · rw [latchStep_filt] at hout
    rwa [if_neg (fun hc => Bool.false_ne_true (hforce.symm.trans (hiff.mpr hc)))]

/-- A kick that is armed at this tick is in force exactly when KICK_MS is at least 1 (R167). -/
theorem outputStep_kick_of_armed (h : u.latch = .off) (hon : (latchStep k now u).latch = .on) :
    (latchStep k now u).kickEnd = now + BitVec.ofNat 32 k.kickMs.toNat ∧
      ((outputStep k now (latchStep k now u)).kick = true ↔ 1 ≤ k.kickMs.toNat) := by
  have hend : (latchStep k now u).kickEnd = now + BitVec.ofNat 32 k.kickMs.toNat := by
    have hlatch := latchStep_of_off (k := k) (now := now) h
    split at hlatch
    · obtain ⟨-, -, hend⟩ := hlatch
      exact hend
    · obtain ⟨hoff, -, -⟩ := hlatch
      cases hoff.symm.trans hon
  have hout := outputStep_latchStep_on hon
  rw [hend, kickMs_remaining] at hout
  refine ⟨hend, ?_⟩
  split at hout
  · next hforce =>
    obtain ⟨-, hpos⟩ := hforce
    obtain ⟨hkick, -⟩ := hout
    simp only [hkick, true_iff]
    omega
  · next hforce =>
    obtain ⟨hkick, -⟩ := hout
    have : ¬ 0 < (k.kickMs.toNat : Int) := fun hpos => hforce ⟨.inl h, hpos⟩
    simp only [hkick, Bool.false_eq_true, false_iff]
    omega

end

/-- A controller tick ends with LatchStep and OutputStep, on a controller state `v` whose latch, kick and stamps are those
from before the tick (R160, R169). -/
theorem tickUs_latched {s : State} {c : ChanIx} (h : tickRuns s c) :
    ∃ t v, exec .tickUs s = .next t ∧
      (chanAt t c).ctl =
        outputStep (chanAt s c).cfg (s.nowMs + 1#32) (latchStep (chanAt s c).cfg (s.nowMs + 1#32) v) ∧
      v.latch = (chanAt s c).ctl.latch ∧ v.kick = (chanAt s c).ctl.kick ∧ v.tTrans = (chanAt s c).ctl.tTrans ∧
      v.kickEnd = (chanAt s c).ctl.kickEnd := by
  obtain ⟨t, ht, hctl⟩ := tickUs_ctl h
  exact ⟨t, _, ht, hctl, by simp, by simp, by simp, by simp⟩

/-- A legal state keeps OFF_BELOW within 100 % in each of its channels (R40). -/
theorem State.Legal.offBelow_le {s : State} (h : s.Legal) {c : ChanIx} (hc : c.toNat < s.nch) :
    (chanAt s c).cfg.offBelow.toNat ≤ 25600 := by
  obtain ⟨-, -, -, hchans⟩ := h
  obtain ⟨⟨-, -, -, -, hoff, -⟩, -, -⟩ := hchans _ (chanAt_mem hc)
  exact hoff

/-! ### The obligations -/

/-- Settles O43: with TEMP valid, TempStep puts the curve's value into RAW. -/
theorem validTemperatureSetsTheCurveDuty : Obligations.ValidTemperatureSetsTheCurveDuty := by
  rintro s c _ _ h hv rfl rfl
  obtain ⟨t, ht, hctl⟩ := tickUs_ctl h
  refine ⟨t, ht, ?_⟩
  rw [hctl, ctrlStep_inv, ctrlStep_failsafe, ctrlStep_invSince, ctrlStep_raw, tempStep_valid hv]
  exact ⟨rfl, rfl, rfl, ofInt_curve_cases rfl⟩

/-- Settles O44: the four fields are TempStep's with TEMP invalid. -/
theorem invalidTemperatureHoldsThenFallsBack : Obligations.InvalidTemperatureHoldsThenFallsBack := by
  rintro s c _ _ _ h hv rfl rfl rfl
  obtain ⟨t, ht, hctl⟩ := tickUs_ctl h
  refine ⟨t, ht, ?_⟩
  rw [hctl, ctrlStep_inv, ctrlStep_failsafe, ctrlStep_invSince, ctrlStep_raw]
  exact tempStep_invalid hv

/-- Settles O45: FILT is FilterStep's, toward the RAW that TempStep left. -/
theorem filterMovesTowardRaw : Obligations.FilterMovesTowardRaw := by
  rintro s c _ _ _ h rfl rfl ha rfl
  obtain ⟨t, ht, hctl⟩ := tickUs_ctl h
  have hmoves := filterStep_moves (s.nowMs + 1#32 - (chanAt s c).ctl.lastTick) ha
    (u := tempStep (chanAt s c).cfg s.temp (s.nowMs + 1#32) { (chanAt s c).ctl with lastTick := s.nowMs + 1#32 })
  rw [tempStep_filt] at hmoves
  refine ⟨t, ht, ?_⟩
  rw [hctl, ctrlStep_raw, ctrlStep_filt]
  exact hmoves

/-- Settles O46: 25600 ticks use up any distance between two duties. -/
theorem filterReachesItsTarget : Obligations.FilterReachesItsTarget := by
  intro k u dts h1 ha hraw hfilt hdts hlen
  obtain ⟨hkeep, hgap⟩ := foldl_filterStep_gap_le (u := u) h1 ha hdts
  have hstart : u.gap ≤ 25600 := by
    unfold CtlState.gap
    omega
  rw [CtlState.gap_eq_zero_iff.mp (by omega), hkeep]

/-- Settles O47: the latch and its stamps are LatchStep's, and OutputStep keeps KICK in OFF. -/
theorem latchFollowsDwellAndThresholds : Obligations.LatchFollowsDwellAndThresholds := by
  rintro s c _ _ _ h rfl rfl rfl
  obtain ⟨t, v, ht, hctl, hlatch, -, htrans, hend⟩ := tickUs_latched h
  refine ⟨t, ht, ?_⟩
  simp only [hctl, ← hlatch, ← htrans, ← hend, outputStep_latch, outputStep_failsafe, latchStep_failsafe,
    outputStep_raw, latchStep_raw, outputStep_tTrans, outputStep_kickEnd]
  refine ⟨latchStep_of_off, fun hon => ?_⟩
  obtain ⟨hkeep, hturn⟩ := latchStep_of_on (k := (chanAt s c).cfg) (now := s.nowMs + 1#32) hon
  refine ⟨hkeep, ?_⟩
  split at hturn
  · next hcond =>
    obtain ⟨hoff, hstamp, hkick⟩ := hturn
    rw [if_pos hcond]
    exact ⟨hoff, hstamp, (outputStep_kick_of_off hoff).trans hkick⟩
  · next hcond =>
    rw [if_neg hcond]
    exact hturn

/-- Settles O48: OutputStep on what LatchStep left. -/
theorem outputFollowsLatchAndKick : Obligations.OutputFollowsLatchAndKick := by
  rintro s c _ _ h rfl rfl
  obtain ⟨t, v, ht, hctl, hlatch, hkick, -, -⟩ := tickUs_latched h
  refine ⟨t, ht, ?_⟩
  simp only [hctl, ← hlatch, ← hkick, outputStep_latch, outputStep_kickEnd, outputStep_filt, latchStep_filt]
  exact ⟨outputStep_outq_of_off, outputStep_latchStep_on, outputStep_kick_of_armed, outputStep_out _ _ _,
    outputStep_active _ _ _⟩

/-- Settles O49: in ON both outputs are at least OFF_BELOW, which a legal configuration keeps within the clamp, and only
the latch's own condition turns it OFF. -/
theorem latchedOutputKeepsTheFloor : Obligations.LatchedOutputKeepsTheFloor := by
  intro s c k u hlegal h hk hu hon hfloor
  have ⟨hc, _⟩ := h
  obtain ⟨t, ht, -, hout, -, -, -⟩ := outputFollowsLatchAndKick s c k u h hk hu
  obtain ⟨t', ht', -, hturn⟩ := latchFollowsDwellAndThresholds s c k u _ h hk hu rfl
  cases ht.symm.trans ht'
  refine ⟨t, ht, fun hstays => ?_, fun hoff => ?_⟩
  · have hoffBelow : k.offBelow.toNat ≤ 25600 := hk ▸ hlegal.offBelow_le hc
    have houtq := hout hstays
    split at houtq <;> omega
  · obtain ⟨-, hturn⟩ := hturn hon
    split at hturn
    · next hcond =>
      obtain ⟨hfs, hdwell, hraw⟩ := hcond
      exact ⟨hdwell, hraw, hfs⟩
    · obtain ⟨hstays, -⟩ := hturn
      cases hstays.symm.trans hoff

end Sys2Proof.Machine
end

section
/-! The timebase and RESET (43_timebase.md R200 to R205), settling O12, O33, O34, O35 and O42. A TICK_US moves the counters
by one equation for each case of the prescaler; the loop of R201 over the channels, in any order, is the map of the model; the
counters of a run are an invariant of its operations. -/

namespace Sys2Proof.Machine

/-! ### The SYS words (R90, R95) -/

theorem decode_tickWord (n : Nat) (w : Word) : decode n ⟨0xC000#16, w⟩ = .ok .tickUs := by
  have hkind : opKind 0xC000#16 = 3#2 := by decide
  rw [decode_sysKind (p := ⟨0xC000#16, w⟩) n hkind, if_pos rfl]

theorem decode_resetWord (n : Nat) (w : Word) : decode n ⟨0xC001#16, w⟩ = .ok .reset := by
  have hkind : opKind 0xC001#16 = 3#2 := by decide
  rw [decode_sysKind (p := ⟨0xC001#16, w⟩) n hkind, if_neg (by simp), if_pos rfl]

/-! ### RESET (R205) -/

/-- What RESET leaves of a channel does not depend on the channel (R49, R65). -/
theorem resetChannel_eq (ch : Channel) : resetChannel ch = Channel.reset := rfl

theorem map_resetChannel (chs : List Channel) : chs.map resetChannel = List.replicate chs.length Channel.reset :=
  List.map_eq_replicate_iff.mpr fun ch _ => resetChannel_eq ch

/-- Settles O12: RESET maps every channel to the reset channel, so only the number of channels is left of the old ones. -/
theorem resetOperationRestoresTheResetState : Obligations.ResetOperationRestoresTheResetState := by
  refine ⟨decode_resetWord, fun s => ?_⟩
  change execReset s = _
  rw [execReset, map_resetChannel]
  rfl

/-! ### TICK_US (R200) -/

/-- The state at the start of a millisecond event: the counters moved, nothing else (R200). -/
def msStart (s : State) : State := { s with nowUs := s.nowUs + 1#32, presc := 0#10, nowMs := s.nowMs + 1#32 }

theorem msEvent_running {s : State} (he : s.en = true) :
    msEvent s = { s with chans := s.chans.map (channelMs s.nowMs s.temp) } := if_pos he

theorem tickUs_ms_stopped {s : State} (hp : s.presc.toNat = 999) (he : s.en = false) :
    exec .tickUs s = .next (msStart s) :=
  (execTickUs_ms hp).trans (congrArg _ (msEvent_stopped (s := msStart s) he))

theorem tickUs_ms_running {s : State} (hp : s.presc.toNat = 999) (he : s.en = true) :
    exec .tickUs s = .next { msStart s with chans := s.chans.map (channelMs (s.nowMs + 1#32) s.temp) } :=
  (execTickUs_ms hp).trans (congrArg _ (msEvent_running (s := msStart s) he))

/-- Settles O33: one equation for each case of PRESC and EN; a map keeps the number of channels. -/
theorem tickCountsTheTimebase : Obligations.TickCountsTheTimebase :=
  ⟨decode_tickWord, fun _ => ⟨execTickUs_quiet, tickUs_ms_stopped,
    fun hp he => ⟨_, List.length_map _, tickUs_ms_running hp he⟩⟩⟩

/-! ### The controller tick (R202) -/

@[simp] theorem ctrlStep_lastTick (k : ChanConfig) (temp : Temp) (now dt : Word) (u : CtlState) :
    (ctrlStep k temp now dt u).lastTick = u.lastTick := by
  simp [ctrlStep]

theorem tickUs_ctl_of_no_tick {s t : State} {c : ChanIx} (hr : ¬ tickRuns s c) (h : exec .tickUs s = .next t) :
    (chanAt t c).ctl = (chanAt s c).ctl := by
  rw [chanAt_tickUs h]
  split
  · next hms =>
    obtain ⟨hp, he, hc⟩ := hms
    have hdue : ¬ tickDue (s.nowMs + 1#32) (chanAt s c) = true := fun hd => hr ⟨hc, ⟨he, hp⟩, of_decide_eq_true hd⟩
    rw [channelMs_ctl, if_neg hdue]
  · rfl

/-- Settles O42: a tick that runs is CtrlStep's on a state stamped with now; one that does not leaves the state. -/
theorem ticksRunWhenThePeriodHasPassed : Obligations.TicksRunWhenThePeriodHasPassed := by
  intro s c hc
  obtain ⟨t, ht, -, -⟩ := tickUs_channel s c hc
  refine ⟨t, ht, fun hr => ?_, fun hr => tickUs_ctl_of_no_tick hr ht⟩
  obtain ⟨_, ht', hctl⟩ := tickUs_ctl hr
  cases ht.symm.trans ht'
  rw [hctl, ctrlStep_lastTick]

/-! ### The two sub-steps of one channel (R201): neither reads what the other writes -/

theorem Channel.eq_of_parts {a b : Channel} (hcfg : a.cfg = b.cfg) (hpulse : a.pulse = b.pulse) (hest : a.est = b.est)
    (hctl : a.ctl = b.ctl) : a = b := by
  cases a
  cases b
  subst hcfg hpulse hest hctl
  rfl

@[simp] theorem windowDue_tickCheck (now : Word) (temp : Temp) (ch : Channel) :
    windowDue now (tickCheck now temp ch) = windowDue now ch := by
  simp [windowDue]

@[simp] theorem windowRpm_tickCheck (now delta : Word) (temp : Temp) (ch : Channel) :
    windowRpm now delta (tickCheck now temp ch) = windowRpm now delta ch := by
  simp [windowRpm, pulseTimedOut]

@[simp] theorem tickDue_windowStep (now : Word) (ch : Channel) : tickDue now (windowStep now ch) = tickDue now ch := by
  simp [tickDue]

theorem windowStep_tickCheck_comm (now : Word) (temp : Temp) (ch : Channel) :
    windowStep now (tickCheck now temp ch) = tickCheck now temp (windowStep now ch) := by
  apply Channel.eq_of_parts
  case hcfg => simp
  case hpulse => simp
  case hest => simp [windowStep_est]
  case hctl => simp [tickCheck_ctl]

/-! ### The loop over the channels (R201) -/

/-- A loop that changes one channel after the other by a function of NOW_MS, TEMP and the channel: no iteration changes the
first two, so it is a loop over the channel list. -/
theorem foldl_channels_eq (g : Word → Temp → Channel → Channel) (order : List Nat) (s : State) :
    order.foldl (fun r c => { r with chans := r.chans.modify c (g r.nowMs r.temp) }) s =
      { s with chans := order.foldl (fun chs c => chs.modify c (g s.nowMs s.temp)) s.chans } := by
  induction order generalizing s with
  | nil => rfl
  | cons c cs ih => rw [List.foldl_cons, List.foldl_cons, ih]

/-- A loop that visits no position twice changes each visited position once. -/
theorem getElem?_foldl_modify {α : Type} (f : α → α) {order : List Nat} (hnd : order.Nodup) (l : List α) (j : Nat) :
    (order.foldl (fun l c => l.modify c f) l)[j]? = if j ∈ order then l[j]?.map f else l[j]? := by
  induction order generalizing l with
  | nil => simp
  | cons c cs ih =>
    obtain ⟨hc, hcs⟩ := List.nodup_cons.mp hnd
    rw [List.foldl_cons, ih hcs, List.getElem?_modify]
    by_cases hj : j = c
    · subst hj
      simp [hc]
    · simp [hj, Ne.symm hj]

/-- A loop that visits every position once, in any order, is a map. -/
theorem foldl_modify_of_perm {α : Type} (f : α → α) {order : List Nat} {l : List α}
    (h : order.Perm (List.range l.length)) : order.foldl (fun l c => l.modify c f) l = l.map f := by
  have hnd : order.Nodup := h.nodup_iff.mpr List.nodup_range
  apply List.ext_getElem?
  intro j
  rw [getElem?_foldl_modify f hnd, List.getElem?_map]
  split
  · rfl
  · next hj =>
    have hlen : l.length ≤ j := by simpa [h.mem_iff] using hj
    rw [List.getElem?_eq_none hlen, Option.map_none]

/-- Settles O34: the model's map over the channels is the loop in any order, and the sub-steps of a channel commute. -/
theorem msEventIsTheLoopInAnyOrder : Obligations.MsEventIsTheLoopInAnyOrder := by
  intro s order hdue horder
  obtain ⟨he, hp⟩ := hdue
  refine ⟨?_, fun t het hpt => tickUs_ms_stopped hpt het, windowStep_tickCheck_comm⟩
  have hperm : order.Perm (List.range (msStart s).chans.length) := horder
  have hloop := foldl_channels_eq channelMs order (msStart s)
  rw [foldl_modify_of_perm _ hperm] at hloop
  exact (tickUs_ms_running hp he).trans (congrArg Host.Outcome.next hloop.symm)

/-! ### The counters of a run (R204) -/

/-- `t` has the counters of `s`. -/
structure SameCounters (s t : State) : Prop where
  nowUs : t.nowUs = s.nowUs
  nowMs : t.nowMs = s.nowMs
  presc : t.presc = s.presc

theorem SameButErrPort.sameCounters {r s t : State} (h : SameButErrPort s t) (hs : SameCounters r s) :
    SameCounters r t := by
  obtain ⟨_, _, rfl⟩ := h
  exact ⟨hs.nowUs, hs.nowMs, hs.presc⟩

/-- An operation other than TICK_US and RESET keeps the counters; a start is no exception (R226). -/
theorem sameCounters_of_exec {i : Instr} {s t : State} (htick : i ≠ .tickUs) (hreset : i ≠ .reset)
    (h : exec i s = .next t) : SameCounters s t := by
  rcases instr_effect_cases i with he | ⟨d, f, he⟩ | ⟨v, rfl⟩ | ⟨v, rfl⟩ | ⟨d, rfl⟩ | rfl | rfl
  · exact (he s t h).sameCounters ⟨rfl, rfl, rfl⟩
  · exact (he s t h).sameCounters ⟨rfl, rfl, rfl⟩
  · exact (registerEffect_wrCtrl v s t h).sameCounters ⟨writeCtrl_nowUs _ _, writeCtrl_nowMs _ _, writeCtrl_presc _ _⟩
  · exact (registerEffect_wrTemp v s t h).sameCounters ⟨rfl, rfl, rfl⟩
  · rcases exec_edge_next h with rfl | rfl <;> exact ⟨rfl, rfl, rfl⟩
  · exact absurd rfl htick
  · exact absurd rfl hreset

/-- The counters of `s` after `n` TICK_US since reset (R204). -/
structure HasCounted (n : Nat) (s : State) : Prop where
  presc : s.presc.toNat = n % 1000
  nowMs : s.nowMs.toNat = n / 1000 % 4294967296
  nowUs : s.nowUs.toNat = n % 4294967296

section
variable {n : Nat} {s t : State}

theorem hasCounted_resetWith (nch : Nat) : HasCounted 0 (State.resetWith nch) := ⟨rfl, rfl, rfl⟩

theorem HasCounted.of_sameCounters (hn : HasCounted n s) (h : SameCounters s t) : HasCounted n t :=
  ⟨by rw [h.presc, hn.presc], by rw [h.nowMs, hn.nowMs], by rw [h.nowUs, hn.nowUs]⟩

theorem HasCounted.tickUs (hn : HasCounted n s) (h : execTickUs s = .next t) : HasCounted (n + 1) t := by
  obtain ⟨hpresc, hnowMs, hnowUs⟩ := hn
  by_cases hp : s.presc.toNat = 999
  · cases (execTickUs_ms hp).symm.trans h
    constructor
    all_goals simp only [msEvent_presc, msEvent_nowMs, msEvent_nowUs, BitVec.toNat_add, BitVec.toNat_ofNat]; omega
  · cases (execTickUs_quiet hp).symm.trans h
    constructor
    all_goals simp only [BitVec.toNat_add, BitVec.toNat_ofNat]; omega

theorem HasCounted.exec_next {i : Instr} (hn : HasCounted n s) (hreset : i ≠ .reset) (h : exec i s = .next t) :
    HasCounted (n + if i = .tickUs then 1 else 0) t := by
  by_cases htick : i = .tickUs
  · subst htick
    exact hn.tickUs h
  · rw [if_neg htick]
    exact hn.of_sameCounters (sameCounters_of_exec htick hreset h)

/-- Along a run, by induction over its operations. -/
theorem HasCounted.run {ops : List Instr} (hn : HasCounted n s) (hreset : .reset ∉ ops)
    (h : runOps ops s = some t) : HasCounted (n + tickCount ops) t := by
  induction ops generalizing s n with
  | nil =>
    cases h
    exact hn
  | cons i is ih =>
    obtain ⟨hi, his⟩ := not_or.mp (mt List.mem_cons.mpr hreset)
    rw [runOps] at h
    rw [tickCount, ← Nat.add_assoc]
    split at h
    · next u hu => exact ih (hn.exec_next (Ne.symm hi) hu) his h
    · cases h
    · cases h

end

/-- Settles O35: a run from reset counts from 0. -/
theorem countersCountTheTicks : Obligations.CountersCountTheTicks := by
  intro nch ops t hreset hrun
  obtain ⟨hpresc, hnowMs, hnowUs⟩ := (hasCounted_resetWith nch).run hreset hrun
  rw [Nat.zero_add] at hpresc hnowMs hnowUs
  exact ⟨hpresc, hnowMs, hnowUs⟩

end Sys2Proof.Machine
end

section
/-! The bus and its global registers (44_bus_global.md R220 to R234), settling O13 to O17 and O27. A global register is word
`ix` of the map at offset `4 * ix`: its RD answers the map's word, its WR runs the map's write rule or is rejected. -/

namespace Sys2Proof.Machine

/-! ### The words of the global block (R93, R99) -/

theorem globalOffset_low : ∀ ix : BitVec 3, (0#7 ++ ix ++ 0#2 : Offset).extractLsb' 0 2 = 0#2 := by decide

theorem decodeBus_global (acc : Access) (ix : BitVec 3) :
    decodeBus acc 2#2 (0#7 ++ ix ++ 0#2) = decodeGlobal acc ix := by
  obtain ⟨h5, h2⟩ := globalOffset_fields ix
  simp only [decodeBus, globalOffset_low, h5, h2, ne_eq, not_true_eq_false, if_false, if_true]

/-- A read's word decodes to its register whatever WDATA stands beside it (R97). -/
theorem decode_globalRead (nch : Nat) (w : Word) (ix : BitVec 3) :
    decode nch ⟨0#2 ++ 2#2 ++ (0#7 ++ ix ++ 0#2 : Offset), w⟩ = .ok (decodeGlobal .rd ix) := by
  have hkind := opKind_word 0#2 2#2 (0#7 ++ ix ++ 0#2)
  rw [decode_rdKind (p := ⟨_, w⟩) nch hkind, opSize_word, opOffset_word, decodeBus_global]

theorem decode_globalWrite (nch : Nat) (v : Word) (ix : BitVec 3) :
    decode nch ⟨1#2 ++ 2#2 ++ (0#7 ++ ix ++ 0#2 : Offset), v⟩ = .ok (decodeGlobal (.wr v) ix) := by
  rw [← decodeBus_global]
  exact decode_presentBus nch (.wr v) 2#2 _

/-! ### The envelope of a global register (R220) -/

/-- RD of a global register completes in every state with the register's number. -/
theorem exec_globalRead {s : State} (ix : BitVec 3) {n : Nat} (h : (globalWord s ix.toNat).toNat = n) :
    exec (decodeGlobal .rd ix) s = .next (readOk n s) := by
  obtain ⟨h5, -⟩ := globalOffset_fields ix
  rw [exec_decodeGlobal_rd, busRead_ok (busCheck_global_read (globalOffset_low ix) h5), ← h, readOk,
    BitVec.ofNat_toNat, BitVec.setWidth_eq, answer]

/-- WR of a writable global register completes in every state with the register's write rule. -/
theorem exec_globalWrite (s : State) (v : Word) (ix : BitVec 3) (h : readOnly (0#7 ++ ix ++ 0#2) = false) :
    exec (decodeGlobal (.wr v) ix) s = .next (writeOk (memWrite s (0#7 ++ ix ++ 0#2) v)) := by
  obtain ⟨h5, -⟩ := globalOffset_fields ix
  have hcheck : busCheck s.nch 2#2 (0#7 ++ ix ++ 0#2) true = none := by
    rw [busCheck_global_write (globalOffset_low ix) h5, h, if_neg Bool.false_ne_true]
  rw [exec_decodeGlobal, busAccess_wr hcheck, answer]

/-- WR of a read-only global register raises RO_WRITE in every state (R234). -/
theorem exec_globalWrite_readOnly (s : State) (v : Word) (ix : BitVec 3) (h : readOnly (0#7 ++ ix ++ 0#2) = true) :
    exec (decodeGlobal (.wr v) ix) s = .next (erred .roWrite (0#7 ++ ix ++ 0#2) true s) := by
  obtain ⟨h5, -⟩ := globalOffset_fields ix
  have hcheck : busCheck s.nch 2#2 (0#7 ++ ix ++ 0#2) true = some .roWrite := by
    rw [busCheck_global_write (globalOffset_low ix) h5, if_pos h]
  rw [exec_decodeGlobal, busAccess_error (acc := .wr v) hcheck, busError_eq_erred]
  rfl

/-! ### Reads (R221 to R223, R227, R229 to R231, R233) -/

/-- CFG reads alike in two states with the same channel count (R24). -/
theorem memRead_cfg_congr {s t : State} (h : t.nch = s.nch) : memRead t 0x004#12 = memRead s 0x004#12 :=
  BitVec.eq_of_toNat_eq (by rw [memRead_cfg_toNat, memRead_cfg_toNat, h])

/-- Settles O13: each read by the number of its packed word; ID is a constant, and no operation changes NCH. -/
theorem globalReadsReturnTheRegisters : Obligations.GlobalReadsReturnTheRegisters := by
  refine ⟨fun n w => ⟨decode_globalRead n w 0#3, decode_globalRead n w 1#3, decode_globalRead n w 2#3,
      decode_globalRead n w 3#3, decode_globalRead n w 4#3, decode_globalRead n w 5#3, decode_globalRead n w 6#3,
      decode_globalRead n w 7#3⟩,
    fun s => ⟨exec_globalRead 0#3 rfl, exec_globalRead 1#3 (cfgWord_toNat s), exec_globalRead 2#3 (ctrlWord_toNat s),
      exec_globalRead 3#3 ((errWord_toNat s.err).trans ?_), exec_globalRead 4#3 rfl, exec_globalRead 5#3 rfl,
      exec_globalRead 6#3 (tempWord_toNat s.temp), exec_globalRead 7#3 (prescWord_toNat s)⟩,
    fun i s t h => ⟨(memRead_id t).trans (memRead_id s).symm, ?_⟩⟩
  · rcases s.err.code with _ | _ | _ | _ | _ <;> rfl
  · obtain ⟨-, hnch⟩ := noOperationChoosesItsSuccessor i s t h
    exact memRead_cfg_congr hnch

/-! ### The envelope over the whole map (R220) -/

theorem accessOf_presentBus (acc : Access) (sz : BitVec 2) (a : Offset) : accessOf (presentBus acc sz a) = acc := by
  cases acc <;> simp [accessOf]

/-- Settles O27: a well-formed operation is the decoder's row of its own access, and that row is the envelope. -/
theorem everyAccessIsTheEnvelope : Obligations.EveryAccessIsTheEnvelope := by
  intro s i hwf hhost
  rcases encode_cases i with ⟨c, rfl⟩ | rfl | rfl | ⟨acc, sz, a, henc⟩
  · simp at hhost
  · simp at hhost
  · simp at hhost
  · have hrow : decodeBus acc sz a = i := by
      have hdec := decode_encode hwf
      rw [henc, decode_presentBus] at hdec
      exact Except.ok.inj hdec
    rw [henc, accessOf_presentBus, opSize_presentBus, opOffset_presentBus, ← exec_decodeBus, hrow]

/-! ### Writes (R224, R226, R228, R232, R234) -/

/-- A WR CTRL with bit 0 clear clears EN and changes nothing else, whether or not the block was running (R224, R225). -/
theorem writeCtrl_stop {v : Word} (s : State) (h : v.getLsbD 0 = false) : writeCtrl v s = { s with en := false } := by
  rw [writeCtrl_eq, if_neg fun hs => Bool.false_ne_true (h.symm.trans hs.2), h]

theorem exec_wrCtrl {s t : State} {v : Word} (h : writeCtrl v s = t) : exec (.wrCtrl v) s = .next (writeOk t) :=
  h ▸ exec_globalWrite s v 2#3 rfl

/-- Settles O14: a start, the value EN already has, and a clear bit 0. -/
theorem writeCtrlStartsAndStops : Obligations.WriteCtrlStartsAndStops :=
  ⟨fun n v => decode_globalWrite n v 2#3, fun s _ => ⟨fun he hv => exec_wrCtrl (writeCtrl_start he hv),
    fun he hv => exec_wrCtrl (writeCtrl_of_en (he.trans hv.symm)), fun hv => exec_wrCtrl (writeCtrl_stop s hv)⟩⟩

theorem exec_wrErr (s : State) (v : Word) : exec (.wrErr v) s = .next (writeOk (clearErr s)) :=
  exec_globalWrite s v 3#3 rfl

/-- ERR with every field 0 reads 0 (R26). -/
theorem errWord_clear : errWord ⟨none, 0#12, false, false⟩ = 0#32 := by decide

/-- Settles O15: the write rule of ERR does not use the operand. -/
theorem writeErrClearsErr : Obligations.WriteErrClearsErr := by
  refine ⟨fun n v => decode_globalWrite n v 3#3, fun s v => ⟨exec_wrErr s v, fun t ht => ?_⟩⟩
  cases (exec_wrErr s v).symm.trans ht
  exact (memRead_global (a := 0x00C#12) rfl).trans errWord_clear

theorem tempOfWord_eq (v : Word) :
    tempOfWord v = ⟨BitVec.ofNat 16 (v.toNat % 65536), decide (v.toNat / 65536 % 2 = 1)⟩ := by
  rw [tempOfWord, bit_eq_decide, ← low16_toNat, BitVec.ofNat_toNat, BitVec.setWidth_eq]
  rfl

/-- Settles O16: the write rule of TEMP, with the fields of the operand as numbers. -/
theorem writeTempStoresValueAndValidity : Obligations.WriteTempStoresValueAndValidity :=
  ⟨fun n v => decode_globalWrite n v 6#3, fun s v => tempOfWord_eq v ▸ exec_globalWrite s v 6#3 rfl⟩

/-- Settles O17: the five registers are the read-only ones of the global block. -/
theorem readOnlyGlobalsRejectWrites : Obligations.ReadOnlyGlobalsRejectWrites :=
  ⟨fun n v => ⟨decode_globalWrite n v 0#3, decode_globalWrite n v 1#3, decode_globalWrite n v 4#3,
      decode_globalWrite n v 5#3, decode_globalWrite n v 7#3⟩,
    fun s v => ⟨exec_globalWrite_readOnly s v 0#3 rfl, exec_globalWrite_readOnly s v 1#3 rfl,
      exec_globalWrite_readOnly s v 4#3 rfl, exec_globalWrite_readOnly s v 5#3 rfl,
      exec_globalWrite_readOnly s v 7#3 rfl⟩⟩

end Sys2Proof.Machine
end

section
/-! The channel registers (45_bus_channel.md R250 to R280, R402 to R412), settling O18 to O20 and O22. A channel register is
word `ix` of its channel's window: its RD answers the window's word, and its WR stores the word's legalised fields. -/

namespace Sys2Proof.Machine

/-! ### The words of a channel window (R93, R99) -/

/-- The word of an access to register `ix` of channel `c` has the kind, the word size and the register's offset as its
fields (R91). -/
theorem channelRead_fields : ∀ (c : ChanIx) (ix : BitVec 5),
    0x2200#16 ||| (ix ++ 0#2 : BitVec 7).setWidth 16 ||| (c.setWidth 16 <<< 7) =
      (0#2 ++ 2#2 ++ chanOffset c (ix ++ 0#2 : BitVec 7) : OpWord) := by decide

theorem channelWrite_fields : ∀ (c : ChanIx) (ix : BitVec 5),
    0x6200#16 ||| (ix ++ 0#2 : BitVec 7).setWidth 16 ||| (c.setWidth 16 <<< 7) =
      (1#2 ++ 2#2 ++ chanOffset c (ix ++ 0#2 : BitVec 7) : OpWord) := by decide

/-- A read's word decodes to its register whatever WDATA stands beside it (R97). -/
theorem decode_channelRead (nch : Nat) (w : Word) (c : ChanIx) (ix : BitVec 5) :
    decode nch ⟨0x2200#16 ||| (ix ++ 0#2 : BitVec 7).setWidth 16 ||| (c.setWidth 16 <<< 7), w⟩ =
      .ok (decodeChannel .rd c ix) := by
  have hkind := opKind_word 0#2 2#2 (chanOffset c (ix ++ 0#2 : BitVec 7))
  rw [channelRead_fields, decode_rdKind (p := ⟨_, w⟩) nch hkind, opSize_word, opOffset_word,
    decodeBus_channel _ c _ (index_low ix), index_high]

theorem decode_channelWrite (nch : Nat) (v : Word) (c : ChanIx) (ix : BitVec 5) :
    decode nch ⟨0x6200#16 ||| (ix ++ 0#2 : BitVec 7).setWidth 16 ||| (c.setWidth 16 <<< 7), v⟩ =
      .ok (decodeChannel (.wr v) c ix) := by
  have hrow := decodeBus_channel (.wr v) c _ (index_low ix)
  rw [index_high] at hrow
  rw [channelWrite_fields, ← hrow]
  exact decode_presentBus nch (.wr v) 2#2 _

/-! ### The envelope of a channel register (R220) -/

/-- RD of a register of a channel that exists completes with the register's number. -/
theorem exec_channelRead {s : State} {c : ChanIx} {ch : Channel} (h : s.chans[c.toNat]? = some ch) (ix : BitVec 5) {n : Nat}
    (hn : (channelWord ch ix.toNat).toNat = n) : exec (decodeChannel .rd c ix) s = .next (readOk n s) := by
  rw [exec_decodeChannel_rd, readChannel_ok _ (index_low ix) (lt_of_get h), chanAt_eq_of_get h, ← hn, readOk,
    BitVec.ofNat_toNat, BitVec.setWidth_eq, answer]

/-- WR of a configuration register of a channel that exists completes with the register's write rule. -/
theorem exec_channelWrite {s : State} {c : ChanIx} (hc : c.toNat < s.nch) (v : Word) (ix : BitVec 5) (hix : ix.toNat < 19) :
    exec (decodeChannel (.wr v) c ix) s = .next (writeOk (withConfig c (configWith ix.toNat v) s)) := by
  have hrel : (ix ++ 0#2 : BitVec 7).toNat < 0x4C := by
    rw [index_toNat]
    omega
  rw [exec_decodeChannel_wr, if_pos hix, writeConfig_ok _ (index_low ix) hrel hc, answer, updateChan]

/-! ### Reads (R265 to R279, R402 to R412) -/

/-- Settles O18: each read by the number of its word. A word is a whole field, a narrower field whose reserved bits read 0
(R32), or two fields packed. -/
theorem configReadsReturnTheRegisters : Obligations.ConfigReadsReturnTheRegisters := by
  refine ⟨fun n w c => ?_, fun s c ch h => ?_⟩
  · have hdec := decode_channelRead n w c
    exact ⟨hdec 0#5, hdec 1#5, hdec 2#5, hdec 3#5, hdec 4#5, hdec 5#5, hdec 6#5, hdec 7#5, hdec 8#5, hdec 9#5, hdec 10#5,
      hdec 11#5, hdec 12#5, hdec 13#5, hdec 14#5, hdec 15#5, hdec 16#5, hdec 17#5, hdec 18#5⟩
  · exact ⟨exec_channelRead h 0#5 rfl, exec_channelRead h 1#5 rfl, exec_channelRead h 2#5 rfl,
      exec_channelRead h 3#5 (BitVec.toNat_setWidth_of_le (by decide)),
      exec_channelRead h 4#5 (BitVec.toNat_setWidth_of_le (by decide)),
      exec_channelRead h 5#5 (BitVec.toNat_setWidth_of_le (by decide)),
      exec_channelRead h 6#5 (BitVec.toNat_setWidth_of_le (by decide)),
      exec_channelRead h 7#5 (threshWord_toNat ch.cfg), exec_channelRead h 8#5 rfl, exec_channelRead h 9#5 rfl,
      exec_channelRead h 10#5 (BitVec.toNat_setWidth_of_le (by decide)),
      exec_channelRead h 11#5 (BitVec.toNat_setWidth_of_le (by decide)), exec_channelRead h 12#5 rfl,
      exec_channelRead h 13#5 (safeWord_toNat ch.cfg), exec_channelRead h 14#5 (pointWord_toNat ch.cfg.curve0),
      exec_channelRead h 15#5 (pointWord_toNat ch.cfg.curve1), exec_channelRead h 16#5 (pointWord_toNat ch.cfg.curve2),
      exec_channelRead h 17#5 (pointWord_toNat ch.cfg.curve3), exec_channelRead h 18#5 (pointWord_toNat ch.cfg.curve4)⟩

/-- Settles O22: as the configuration's reads; CMD and OUT are the packed ones. -/
theorem statusReadsReturnTheRegisters : Obligations.StatusReadsReturnTheRegisters := by
  refine ⟨fun n w c => ?_, fun s c ch h => ?_⟩
  · have hdec := decode_channelRead n w c
    exact ⟨hdec 19#5, hdec 20#5, hdec 21#5, hdec 22#5, hdec 23#5, hdec 24#5, hdec 25#5, hdec 26#5, hdec 27#5, hdec 28#5,
      hdec 29#5, hdec 30#5, hdec 31#5⟩
  · exact ⟨exec_channelRead h 19#5 rfl, exec_channelRead h 20#5 rfl, exec_channelRead h 21#5 rfl,
      exec_channelRead h 22#5 rfl, exec_channelRead h 23#5 rfl, exec_channelRead h 24#5 rfl, exec_channelRead h 25#5 rfl,
      exec_channelRead h 26#5 rfl, exec_channelRead h 27#5 (cmdWord_toNat ch.ctl),
      exec_channelRead h 28#5 (outWord_toNat ch.ctl), exec_channelRead h 29#5 rfl, exec_channelRead h 30#5 rfl,
      exec_channelRead h 31#5 rfl⟩

/-! ### The legalised fields of a written word, by their numbers (R32) -/

/-- The low `n` bits of a written word are its remainder modulo `m` = 2^n. -/
theorem lowBits_toNat {n m : Nat} (v : Word) (hm : 2 ^ n = m) : (v.extractLsb' 0 n).toNat = v.toNat % m := by
  rw [BitVec.extractLsb'_toNat, Nat.shiftRight_zero, hm]

theorem lowBits_eq {n m : Nat} (v : Word) (hm : 2 ^ n = m) : v.extractLsb' 0 n = BitVec.ofNat n (v.toNat % m) :=
  (BitVec.toNat_eq_nat.mp (lowBits_toNat v hm)).2

theorem min1_eq {n : Nat} (hn : 0 < n) (v : BitVec n) : min1 v = BitVec.ofNat n (max v.toNat 1) :=
  (BitVec.toNat_eq_nat.mp (min1_toNat hn v)).2

theorem min1_lowBits_eq {n m : Nat} (v : Word) (hn : 0 < n) (hm : 2 ^ n = m) :
    min1 (v.extractLsb' 0 n) = BitVec.ofNat n (max (v.toNat % m) 1) := by
  rw [min1_eq hn, lowBits_toNat v hm]

theorem cap_lowBits_eq {n m a : Nat} (v : Word) (hm : 2 ^ n = m) (ha : a < m) :
    cap (v.extractLsb' 0 n) a = BitVec.ofNat n (min (v.toNat % m) a) :=
  (BitVec.toNat_eq_nat.mp (by rw [cap_toNat _ (hm ▸ ha), lowBits_toNat v hm])).2

theorem lowDuty_eq (v : Word) : lowDuty v = BitVec.ofNat 16 (min (v.toNat % 65536) 25600) :=
  (BitVec.toNat_eq_nat.mp (lowDuty_toNat v)).2

theorem highDuty_eq (v : Word) : highDuty v = BitVec.ofNat 16 (min (v.toNat / 65536) 25600) :=
  (BitVec.toNat_eq_nat.mp (highDuty_toNat v)).2

/-- The temperature is stored raw, the duty capped (R280). -/
theorem pointOfWord_eq (v : Word) :
    pointOfWord v = ⟨BitVec.ofNat 16 (v.toNat % 65536), BitVec.ofNat 16 (min (v.toNat / 65536) 25600)⟩ := by
  rw [pointOfWord, lowBits_eq (m := 65536) v rfl, highDuty_eq]

/-! ### Writes (R252 to R280) -/

/-- Settles O19: the write rule of each register, with its field as a number. -/
theorem timingConfigWritesStoreLegalFields : Obligations.TimingConfigWritesStoreLegalFields := by
  refine ⟨fun n v c => ?_, fun s c v hc => ?_⟩
  · have hdec := decode_channelWrite n v c
    exact ⟨hdec 0#5, hdec 1#5, hdec 2#5, hdec 3#5, hdec 4#5, hdec 5#5, hdec 6#5, hdec 8#5, hdec 9#5, hdec 11#5,
      hdec 12#5⟩
  · have hwr := exec_channelWrite hc v
    have hppr : min1 (v.extractLsb' 0 8) = BitVec.ofNat 8 (max (v.toNat % 256) 1) := min1_lowBits_eq v (by decide) rfl
    have hperiod : min1 (v.extractLsb' 0 31) = BitVec.ofNat 31 (max (v.toNat % 2147483648) 1) :=
      min1_lowBits_eq v (by decide) rfl
    have hrate : v.extractLsb' 0 24 = BitVec.ofNat 24 (v.toNat % 16777216) := lowBits_eq v rfl
    have halpha : cap (v.extractLsb' 0 17) Config.alphaOne = BitVec.ofNat 17 (min (v.toNat % 131072) 65536) :=
      cap_lowBits_eq v rfl (by decide)
    have hkick : v.extractLsb' 0 31 = BitVec.ofNat 31 (v.toNat % 2147483648) := lowBits_eq v rfl
    exact ⟨hwr 0#5 (by decide), min1_eq (by decide) v ▸ hwr 1#5 (by decide), hwr 2#5 (by decide),
      hppr ▸ hwr 3#5 (by decide), hperiod ▸ hwr 4#5 (by decide), hrate ▸ hwr 5#5 (by decide),
      halpha ▸ hwr 6#5 (by decide), hwr 8#5 (by decide), hwr 9#5 (by decide), hkick ▸ hwr 11#5 (by decide),
      hwr 12#5 (by decide)⟩

/-- Settles O20: as the timing registers' writes, with duty fields and curve points. -/
theorem dutyConfigWritesStoreLegalFields : Obligations.DutyConfigWritesStoreLegalFields := by
  refine ⟨fun n v c => ?_, fun s c v hc => ?_⟩
  · have hdec := decode_channelWrite n v c
    exact ⟨hdec 7#5, hdec 10#5, hdec 13#5, hdec 14#5, hdec 15#5, hdec 16#5, hdec 17#5, hdec 18#5⟩
  · have hwr := exec_channelWrite hc v
    rw [← pointOfWord_eq, ← lowDuty_eq, ← highDuty_eq]
    exact ⟨hwr 7#5 (by decide), hwr 10#5 (by decide), hwr 13#5 (by decide), hwr 14#5 (by decide), hwr 15#5 (by decide),
      hwr 16#5 (by decide), hwr 17#5 (by decide), hwr 18#5 (by decide)⟩

end Sys2Proof.Machine
end

section
/-! Bus errors and completion (60_exceptions.md R300 to R309), settling O8, O23 to O25, O28 and O32. BusCheck is a chain of
conditions on the numbers of an access, so a bus word's step has one outcome for each link; and an operation that leaves ERR
other than it was is an access that BusCheck rejects, or WR ERR, or RESET. -/

namespace Sys2Proof.Machine

/-! ### The error rows (R303 to R305) -/

theorem unmappedOffset_eq_ofNat (a : BitVec 10) : unmappedOffset a = BitVec.ofNat 12 (4 * a.toNat) :=
  (BitVec.toNat_eq_nat.mp (unmappedOffset_toNat a)).2

/-- Settles O24: each row is the bus error itself, whatever its fields (log 13). -/
theorem errorClassRowsRaiseTheirError : Obligations.ErrorClassRowsRaiseTheirError := by
  intro s v a b sz
  rw [← unmappedOffset_eq_ofNat]
  have hrow (e : BusErr) (o : Offset) (wr : Bool) :
      (.next (busError e o wr s) : Host.Outcome State Fault Refusal) = .next (erred e o wr s) := by
    rw [busError_eq_erred]
  exact ⟨hrow _ _ _, hrow _ _ _, hrow _ _ _, hrow _ _ _, hrow _ _ _, hrow _ _ _⟩

/-! ### The status registers (R306) -/

/-- WR of a status register of a channel that exists raises RO_WRITE at the register's offset. -/
theorem exec_statusWrite {s : State} {c : ChanIx} (hc : c.toNat < s.nch) (v : Word) (ix : BitVec 5) {n : Nat}
    (hix : 19 ≤ ix.toNat) (hn : 0x200 + 4 * ix.toNat = n) :
    exec (decodeChannel (.wr v) c ix) s = .next (erred .roWrite (BitVec.ofNat 12 (n + 0x80 * c.toNat)) true s) := by
  have hrel : 0x4C ≤ (ix ++ 0#2 : BitVec 7).toNat := by
    rw [index_toNat]
    omega
  have hoff : (chanOffset c (ix ++ 0#2 : BitVec 7)).toNat = n + 0x80 * c.toNat := by
    rw [chanOffset_index_toNat, ← hn]
    omega
  rw [exec_decodeChannel_wr, if_neg (Nat.not_lt.mpr hix), busWriteReadOnly_channel (index_low ix) hrel hc,
    busError_eq_erred, ← hoff, BitVec.ofNat_toNat, BitVec.setWidth_eq]

/-- Settles O23: the status registers are words 19 to 31 of the channel's window. -/
theorem statusRegistersRejectWrites : Obligations.StatusRegistersRejectWrites := by
  intro s c v hc
  have hwr := exec_statusWrite hc v
  exact ⟨hwr 19#5 (by decide) rfl, hwr 20#5 (by decide) rfl, hwr 21#5 (by decide) rfl, hwr 22#5 (by decide) rfl,
    hwr 23#5 (by decide) rfl, hwr 24#5 (by decide) rfl, hwr 25#5 (by decide) rfl, hwr 26#5 (by decide) rfl,
    hwr 27#5 (by decide) rfl, hwr 28#5 (by decide) rfl, hwr 29#5 (by decide) rfl, hwr 30#5 (by decide) rfl,
    hwr 31#5 (by decide) rfl⟩

/-! ### Completion (R300, R307) -/

/-- TICK_US completes in every state, with a millisecond event or without. -/
theorem exec_tickUs_completes (s : State) : ∃ t, exec .tickUs s = .next t := by
  by_cases hp : s.presc.toNat = 999
  · exact ⟨_, execTickUs_ms hp⟩
  · exact ⟨_, execTickUs_quiet hp⟩

/-- Settles O8: an access completes as the envelope, an event by its own equation. -/
theorem wellFormedOperationsAlwaysComplete : Obligations.WellFormedOperationsAlwaysComplete := by
  intro s i
  constructor
  · intro hwf
    rcases encode_cases i with ⟨c, rfl⟩ | rfl | rfl | ⟨acc, sz, a, henc⟩
    · exact ⟨_, exec_edge (of_decide_eq_true hwf)⟩
    · exact exec_tickUs_completes s
    · exact ⟨_, rfl⟩
    · exact ⟨_, everyAccessIsTheEnvelope s i hwf (agentOf_presentBus henc)⟩
  · rintro c rfl hc
    exact if_neg (Nat.not_lt.mpr hc)

/-! ### BusCheck in numbers (R302) -/

/-- Mapped(A) holds where a register stands (R22, R72). -/
theorem mapped_iff (nch : Nat) (a : Offset) : mapped nch a = true ↔ registerAt nch a := by
  have ha := a.isLt
  simp only [mapped, Bool.or_eq_true, Bool.and_eq_true, beq_iff_eq, decide_eq_true_iff, ← BitVec.toNat_inj,
    BitVec.extractLsb'_toNat, Nat.shiftRight_eq_div_pow, BitVec.toNat_ofNat]
  omega

/-- ReadOnly(A) holds at the offsets of the read-only registers (R22). -/
theorem readOnly_iff (a : Offset) : readOnly a = true ↔ readOnlyAt a := by
  have ha := a.isLt
  simp only [readOnly, Bool.or_eq_true, Bool.and_eq_true, beq_iff_eq, decide_eq_true_iff, ← BitVec.toNat_inj,
    BitVec.extractLsb'_toNat, Nat.shiftRight_eq_div_pow, BitVec.toNat_ofNat]
  omega

theorem aligned_iff (a : Offset) : a.extractLsb' 0 2 = 0#2 ↔ a.toNat % 4 = 0 := by
  rw [← BitVec.toNat_inj, BitVec.extractLsb'_toNat, Nat.shiftRight_zero]
  rfl

/-- BusCheck as R302 gives it, on the numbers of the access. -/
theorem busCheck_eq (nch : Nat) (sz : BitVec 2) (a : Offset) (wr : Bool) :
    busCheck nch sz a wr =
      if sz.toNat ≠ 2 then some .size
      else if a.toNat % 4 ≠ 0 then some .misalign
      else if ¬ registerAt nch a then some .unmapped
      else if wr = true ∧ readOnlyAt a then some .roWrite
      else none := by
  have hsize : sz = 2#2 ↔ sz.toNat = 2 := BitVec.toNat_inj.symm
  simp only [busCheck, ne_eq, hsize, aligned_iff, Bool.not_eq_true', ← Bool.not_eq_true, mapped_iff,
    Bool.and_eq_true, readOnly_iff]

/-! ### The step of a bus word (R91, R220) -/

theorem opSize_toNat (w : OpWord) : (opSize w).toNat = w.toNat / 0x1000 % 4 := by
  rw [opSize, BitVec.extractLsb'_toNat, Nat.shiftRight_eq_div_pow]

theorem opOffset_toNat (w : OpWord) : (opOffset w).toNat = w.toNat % 0x1000 := by
  rw [opOffset, BitVec.extractLsb'_toNat, Nat.shiftRight_zero]

/-- A word below 0x8000 is a read or a write, by its bit 14 (R91). -/
theorem opKind_of_bus {w : OpWord} (h : w.toNat < 0x8000) :
    (opKind w = 0#2 ∧ w.toNat < 0x4000) ∨ (opKind w = 1#2 ∧ 0x4000 ≤ w.toNat) := by
  have hkind := opKind_toNat w
  simp only [← BitVec.toNat_inj, BitVec.toNat_ofNat, hkind]
  omega

theorem isWrite_accessOf {p : Presented} (h : p.word.toNat < 0x8000) :
    isWrite (accessOf p) = decide (0x4000 ≤ p.word.toNat) := by
  rcases opKind_of_bus h with ⟨hk, hw⟩ | ⟨hk, hw⟩ <;> simp [accessOf, isWrite, hk, hw]

/-- The step of a bus word is the envelope of its access. -/
theorem step_bus {s : State} {p : Presented} {rest : List Presented} (hp : s.pending = p :: rest)
    (h : p.word.toNat < 0x8000) :
    step s = .next (busAccess (accessOf p) (opSize p.word) (opOffset p.word) { s with pending := rest }) := by
  rw [← exec_decodeBus]
  apply step_decoded hp
  rcases opKind_of_bus h with ⟨hk, -⟩ | ⟨hk, -⟩
  · rw [decode_rdKind _ hk, accessOf, if_pos hk]
  · rw [decode_wrKind _ hk, accessOf, if_neg (by simp [hk])]

theorem step_bus_error {s : State} {p : Presented} {rest : List Presented} {e : BusErr} (hp : s.pending = p :: rest)
    (h : p.word.toNat < 0x8000)
    (he : busCheck s.nch (opSize p.word) (opOffset p.word) (decide (0x4000 ≤ p.word.toNat)) = some e) :
    step s = .next (erred e (opOffset p.word) (decide (0x4000 ≤ p.word.toNat)) { s with pending := rest }) := by
  rw [← isWrite_accessOf h] at he ⊢
  rw [step_bus hp h, ← busError_eq_erred]
  exact congrArg Host.Outcome.next (busAccess_error he)

/-- An access that BusCheck passes is answered OK (R220). -/
theorem busAccess_status_ok {acc : Access} {sz : BitVec 2} {a : Offset} {s : State}
    (h : busCheck s.nch sz a (isWrite acc) = none) :
    (busAccess acc sz a s).port.map (fun r => r.status) = some .ok := by
  cases acc with
  | rd => rw [busAccess_rd h, answer_port, Option.map_some]
  | wr v => rw [busAccess_wr h, answer_port, Option.map_some]

theorem step_bus_ok {s : State} {p : Presented} {rest : List Presented} (hp : s.pending = p :: rest)
    (h : p.word.toNat < 0x8000)
    (hnone : busCheck s.nch (opSize p.word) (opOffset p.word) (decide (0x4000 ≤ p.word.toNat)) = none) :
    ∃ t, step s = .next t ∧ t.port.map (fun r => r.status) = some .ok := by
  rw [← isWrite_accessOf h] at hnone
  exact ⟨_, step_bus hp h, busAccess_status_ok hnone⟩

/-- Settles O25: one case for each link of BusCheck's chain. -/
theorem busErrorsFollowTheirPriority : Obligations.BusErrorsFollowTheirPriority := by
  rintro s p rest _ _ _ - hp hw rfl rfl rfl
  simp only [← opSize_toNat, ← opOffset_toNat, BitVec.ofNat_toNat, BitVec.setWidth_eq]
  split
  case isTrue hsz => exact step_bus_error hp hw (by rw [busCheck_eq, if_pos hsz])
  case isFalse hsz =>
  split
  case isTrue hal => exact step_bus_error hp hw (by rw [busCheck_eq, if_neg hsz, if_pos hal])
  case isFalse hal =>
  split
  case isTrue hreg => exact step_bus_error hp hw (by rw [busCheck_eq, if_neg hsz, if_neg hal, if_pos hreg])
  case isFalse hreg =>
  split
  case isTrue hro => exact step_bus_error hp hw (by rw [busCheck_eq, if_neg hsz, if_neg hal, if_neg hreg, if_pos hro])
  case isFalse hro => exact step_bus_ok hp hw (by rw [busCheck_eq, if_neg hsz, if_neg hal, if_neg hreg, if_neg hro])

/-! ### Who changes ERR (R301) -/

/-- No write rule but ERR's own changes ERR. -/
theorem memWrite_err {s : State} {a : Offset} (v : Word) (h : a ≠ 0x00C#12) : (memWrite s a v).err = s.err := by
  unfold memWrite
  rw [if_neg h]
  split
  · exact writeCtrl_err v s
  split
  · rfl
  split <;> rfl

/-- An access that BusCheck passes leaves ERR, unless it is WR ERR. -/
theorem busAccess_err {acc : Access} {a : Offset} {s : State} (h : busCheck s.nch 2#2 a (isWrite acc) = none)
    (hne : ∀ v, decodeBus acc 2#2 a ≠ .wrErr v) : (busAccess acc 2#2 a s).err = s.err := by
  cases acc with
  | rd => rw [busAccess_rd h, answer_err]
  | wr v =>
    rw [busAccess_wr h, answer_err]
    apply memWrite_err
    rintro rfl
    exact hne v rfl

/-- Everything an operation other than WR ERR and RESET can do to ERR: leave it, answering no error, or be the bus error at its
own offset and in its own direction. -/
theorem exec_err_cases {i : Instr} {s t : State} (h : exec i s = .next t) (hreset : i ≠ .reset)
    (hwrErr : ∀ v, i ≠ .wrErr v) :
    (t.err = s.err ∧ ¬ (agentOf i = .host ∧ t.port.map (fun r => r.status) = some .err)) ∨
      (agentOf i = .host ∧
        ∃ e, t = busError e (opOffset (encode i).word) (decide (opKind (encode i).word = 1#2)) s) := by
  rcases encode_cases i with ⟨c, rfl⟩ | rfl | rfl | ⟨_, _, _, henc⟩
  · obtain ⟨-, -, -, hbus⟩ := edge_frame (c := c) h
    exact .inl ⟨hbus.err, by simp⟩
  · obtain ⟨-, -, hbus⟩ := tickUs_frame (c := 0#2) h
    exact .inl ⟨hbus.err, by simp⟩
  · exact absurd rfl hreset
  · have hhost := agentOf_presentBus henc
    rcases host_outcome hhost h with ⟨acc, sz, a, e, henc, rfl⟩ | ⟨acc, a, -, rfl, hb, rfl⟩
    · refine .inr ⟨hhost, e, ?_⟩
      rw [henc, opOffset_presentBus, ← opKind_beq_presentBus acc sz a]
      rfl
    · refine .inl ⟨busAccess_err hb hwrErr, ?_⟩
      simp [busAccess_status_ok hb]

/-- Settles O28: an operation that leaves ERR has nothing to show, and a bus error records by the one rule of R301. -/
theorem firstErrorIsKept : Obligations.FirstErrorIsKept := by
  intro i s t h hreset hwrErr
  rcases exec_err_cases h hreset hwrErr with ⟨herr, hok⟩ | ⟨hhost, e, rfl⟩
  · rw [herr]
    exact ⟨fun _ => ⟨rfl, rfl, rfl, id, fun hne => absurd rfl hne⟩, fun _ hne => absurd rfl hne,
      fun hhost hport => absurd ⟨hhost, hport⟩ hok, fun hne => absurd rfl hne⟩
  · rw [busError_err]
    by_cases hcode : s.err.code = none
    · rw [recordError_first _ _ _ hcode]
      exact ⟨fun hne => absurd hcode hne, fun _ _ => ⟨nofun, rfl⟩,
        fun _ _ => ⟨fun hne => absurd hcode hne, fun _ => ⟨e, rfl⟩⟩, fun _ => ⟨hhost, rfl⟩⟩
    · rw [recordError_later _ _ _ hcode]
      exact ⟨fun _ => ⟨rfl, rfl, rfl, fun _ => rfl, fun _ => rfl⟩, fun hnone => absurd hnone hcode,
        fun _ _ => ⟨fun _ => rfl, fun hnone => absurd hnone hcode⟩, fun _ => ⟨hhost, rfl⟩⟩

/-! ### Edges of different channels (R127, R309) -/

/-- Changes of two different channels commute. -/
theorem updateChan_comm {c d : ChanIx} (h : c ≠ d) (f g : Channel → Channel) (s : State) :
    updateChan d g (updateChan c f s) = updateChan c f (updateChan d g s) := by
  have hne : c.toNat ≠ d.toNat := fun he => h (BitVec.eq_of_toNat_eq he)
  rw [updateChan, updateChan_chans, List.modify_modify_ne _ _ _ hne]
  rfl

/-- Settles O32: an edge changes its own channel alone, by EN and the timebase, which no edge changes. -/
theorem edgesOfDifferentChannelsCommute : Obligations.EdgesOfDifferentChannelsCommute := by
  intro c d s hne hc hd
  cases he : s.en
  · exact ⟨s, s, s, exec_edge_stopped hc he, exec_edge_stopped hd he, exec_edge_stopped hd he,
      exec_edge_stopped hc he⟩
  · have hsecond {a b : ChanIx} (hb : b.toNat < s.nch) (f : Channel → Channel) :
        exec (.edge b) (updateChan a f s) =
          .next (updateChan b (recordEdge s.nowUs s.nowMs) (updateChan a f s)) :=
      exec_edge_running (by rwa [nch_updateChan]) he
    refine ⟨_, _, _, exec_edge_running hc he, hsecond hd _, exec_edge_running hd he, ?_⟩
    rw [hsecond hc, updateChan_comm hne]

end Sys2Proof.Machine
end

section
/-! The reset state is legal (70_reset_and_hazards.md R340; 10_state.md R49, R65), settling O9, for every channel count that R11
allows. A channel after reset is a channel started with the reset configuration, so its legality is that of a start. -/

namespace Sys2Proof.Machine

theorem channelReset_legal : Channel.reset.Legal := by
  rw [← resetChannel_eq Channel.reset]
  exact startChannel_legal configReset_legal _ _

/-- The reset state of a block with 1 to 4 channels (R11) is legal: every channel of it is `Channel.reset`. -/
theorem resetWith_legal {n : Nat} (hpos : 1 ≤ n) (hle : n ≤ 4) : (State.resetWith n).Legal := by
  refine ⟨by simpa using ⟨hpos, hle⟩, Nat.zero_le _, fun _ => ⟨rfl, rfl, rfl⟩, fun ch hch => ?_⟩
  rw [eq_reset_of_mem_resetWith hch]
  exact channelReset_legal

/-- Settles O9: log 3's channel count is one that R11 allows. -/
theorem resetStateIsLegal : Obligations.ResetStateIsLegal := resetWith_legal (by decide) (by decide)

end Sys2Proof.Machine
end
